-- ==== Sys2Proof/Word.lean ====
section
/-!
DEFINITION. The words of the machine: spec/00_scope.md R9 (widths) and R10 (u32 values).
-/
namespace Sys2Proof

/-- A `u32`: register, CSR, address or data value (R10). -/
abbrev Word := BitVec 32

/-- A byte of memory or of a device register. -/
abbrev Byte := BitVec 8

/-- A general register's number, a five-bit field of an instruction (R141). -/
abbrev Reg := BitVec 5

/-- A CSR address, twelve bits (R9, R27). -/
abbrev CsrAddr := BitVec 12

end Sys2Proof
end

