-- ==== Sys2Proof/Syntax.lean ====
section
/-!
DEFINITION. The instructions: one constructor per row of spec/opcode_table.json. Immediates are held as the 32-bit value
the decoder assembles (spec/30_encoding.md R143); fields the decoder ignores are operands too, so that an instruction
determines its word (log 13).
-/
namespace Sys2Proof

/-- One instruction of RV32IMA with Zicsr and Zifencei, as decoded (spec/30_encoding.md R145, R147). -/
inductive Instr where
  -- Upper immediates (40_alu.md R201, R202)
  | lui (rd : Reg) (imm : Word)
  | auipc (rd : Reg) (imm : Word)
  -- Jumps and branches (41_control.md R240 to R247)
  | jal (rd : Reg) (imm : Word)
  | jalr (rd rs1 : Reg) (imm : Word)
  | beq (rs1 rs2 : Reg) (imm : Word)
  | bne (rs1 rs2 : Reg) (imm : Word)
  | blt (rs1 rs2 : Reg) (imm : Word)
  | bge (rs1 rs2 : Reg) (imm : Word)
  | bltu (rs1 rs2 : Reg) (imm : Word)
  | bgeu (rs1 rs2 : Reg) (imm : Word)
  -- Loads and stores (42_loadstore.md R261 to R268)
  | lb (rd rs1 : Reg) (imm : Word)
  | lh (rd rs1 : Reg) (imm : Word)
  | lw (rd rs1 : Reg) (imm : Word)
  | lbu (rd rs1 : Reg) (imm : Word)
  | lhu (rd rs1 : Reg) (imm : Word)
  | sb (rs1 rs2 : Reg) (imm : Word)
  | sh (rs1 rs2 : Reg) (imm : Word)
  | sw (rs1 rs2 : Reg) (imm : Word)
  -- Register-immediate (40_alu.md R203 to R211); `b25` is the bit the decoder ignores (R145)
  | addi (rd rs1 : Reg) (imm : Word)
  | slti (rd rs1 : Reg) (imm : Word)
  | sltiu (rd rs1 : Reg) (imm : Word)
  | xori (rd rs1 : Reg) (imm : Word)
  | ori (rd rs1 : Reg) (imm : Word)
  | andi (rd rs1 : Reg) (imm : Word)
  | slli (rd rs1 : Reg) (shamt : BitVec 5) (b25 : Bool)
  | srli (rd rs1 : Reg) (shamt : BitVec 5) (b25 : Bool)
  | srai (rd rs1 : Reg) (shamt : BitVec 5) (b25 : Bool)
  -- Register-register (40_alu.md R212 to R221)
  | add (rd rs1 rs2 : Reg)
  | sub (rd rs1 rs2 : Reg)
  | sll (rd rs1 rs2 : Reg)
  | slt (rd rs1 rs2 : Reg)
  | sltu (rd rs1 rs2 : Reg)
  | xor (rd rs1 rs2 : Reg)
  | srl (rd rs1 rs2 : Reg)
  | sra (rd rs1 rs2 : Reg)
  | or (rd rs1 rs2 : Reg)
  | and (rd rs1 rs2 : Reg)
  -- Fences and hints (46_system.md R340 to R343), with the fields the decoder ignores
  | fence (fm pred succ : BitVec 4) (rs1 rd : Reg)
  | fenceI (imm : BitVec 12) (rs1 rd : Reg)
  | sfenceVma (rs1 rs2 : Reg)
  | wfi
  -- Environment calls and trap returns (46_system.md R344 to R347)
  | ecall
  | ebreak
  | mret
  | sret
  -- CSR instructions (45_csr.md R321 to R326)
  | csrrw (rd rs1 : Reg) (csr : CsrAddr)
  | csrrs (rd rs1 : Reg) (csr : CsrAddr)
  | csrrc (rd rs1 : Reg) (csr : CsrAddr)
  | csrrwi (rd : Reg) (uimm : BitVec 5) (csr : CsrAddr)
  | csrrsi (rd : Reg) (uimm : BitVec 5) (csr : CsrAddr)
  | csrrci (rd : Reg) (uimm : BitVec 5) (csr : CsrAddr)
  -- Multiply and divide (43_muldiv.md R281 to R288)
  | mul (rd rs1 rs2 : Reg)
  | mulh (rd rs1 rs2 : Reg)
  | mulhsu (rd rs1 rs2 : Reg)
  | mulhu (rd rs1 rs2 : Reg)
  | div (rd rs1 rs2 : Reg)
  | divu (rd rs1 rs2 : Reg)
  | rem (rd rs1 rs2 : Reg)
  | remu (rd rs1 rs2 : Reg)
  -- Atomics (44_atomics.md R300 to R311), with the ignored ordering bits
  | lrW (rd rs1 : Reg) (aq rl : Bool)
  | scW (rd rs1 rs2 : Reg) (aq rl : Bool)
  | amoswapW (rd rs1 rs2 : Reg) (aq rl : Bool)
  | amoaddW (rd rs1 rs2 : Reg) (aq rl : Bool)
  | amoxorW (rd rs1 rs2 : Reg) (aq rl : Bool)
  | amoandW (rd rs1 rs2 : Reg) (aq rl : Bool)
  | amoorW (rd rs1 rs2 : Reg) (aq rl : Bool)
  | amominW (rd rs1 rs2 : Reg) (aq rl : Bool)
  | amomaxW (rd rs1 rs2 : Reg) (aq rl : Bool)
  | amominuW (rd rs1 rs2 : Reg) (aq rl : Bool)
  | amomaxuW (rd rs1 rs2 : Reg) (aq rl : Bool)
deriving DecidableEq, Repr

end Sys2Proof
end

