-- ==== Sys2Proof/WellFormed.lean ====
section
/-!
DEFINITION. Which instructions are the reading of some word: the immediates are those the formats of
spec/30_encoding.md R143 can assemble. Every other operand is in range by its type.
-/
namespace Sys2Proof

/-- An I or S immediate: the sign extension of its low twelve bits, so in [-2048, 2047]. -/
def immISok (imm : Word) : Bool := (imm.setWidth 12).signExtend 32 == imm

/-- A B immediate: even, and the sign extension of its low thirteen bits. -/
def immBok (imm : Word) : Bool := (imm.setWidth 13).signExtend 32 == imm && !imm.getLsbD 0

/-- A J immediate: even, and the sign extension of its low twenty-one bits. -/
def immJok (imm : Word) : Bool := (imm.setWidth 21).signExtend 32 == imm && !imm.getLsbD 0

/-- A U immediate: bits 11:0 are zero. -/
def immUok (imm : Word) : Bool := imm.setWidth 12 == 0#12

/-- The check of an instruction: its immediate is one its format assembles (R143). -/
def Instr.wf : Instr → Bool
  | .lui _ imm => immUok imm
  | .auipc _ imm => immUok imm
  | .jal _ imm => immJok imm
  | .jalr _ _ imm => immISok imm
  | .beq _ _ imm => immBok imm
  | .bne _ _ imm => immBok imm
  | .blt _ _ imm => immBok imm
  | .bge _ _ imm => immBok imm
  | .bltu _ _ imm => immBok imm
  | .bgeu _ _ imm => immBok imm
  | .lb _ _ imm => immISok imm
  | .lh _ _ imm => immISok imm
  | .lw _ _ imm => immISok imm
  | .lbu _ _ imm => immISok imm
  | .lhu _ _ imm => immISok imm
  | .sb _ _ imm => immISok imm
  | .sh _ _ imm => immISok imm
  | .sw _ _ imm => immISok imm
  | .addi _ _ imm => immISok imm
  | .slti _ _ imm => immISok imm
  | .sltiu _ _ imm => immISok imm
  | .xori _ _ imm => immISok imm
  | .ori _ _ imm => immISok imm
  | .andi _ _ imm => immISok imm
  | .slli _ _ _ _ | .srli _ _ _ _ | .srai _ _ _ _ => true
  | .add _ _ _ | .sub _ _ _ | .sll _ _ _ | .slt _ _ _ | .sltu _ _ _ => true
  | .xor _ _ _ | .srl _ _ _ | .sra _ _ _ | .or _ _ _ | .and _ _ _ => true
  | .fence _ _ _ _ _ | .fenceI _ _ _ | .sfenceVma _ _ | .wfi => true
  | .ecall | .ebreak | .mret | .sret => true
  | .csrrw _ _ _ | .csrrs _ _ _ | .csrrc _ _ _ => true
  | .csrrwi _ _ _ | .csrrsi _ _ _ | .csrrci _ _ _ => true
  | .mul _ _ _ | .mulh _ _ _ | .mulhsu _ _ _ | .mulhu _ _ _ => true
  | .div _ _ _ | .divu _ _ _ | .rem _ _ _ | .remu _ _ _ => true
  | .lrW _ _ _ _ | .scW _ _ _ _ _ => true
  | .amoswapW _ _ _ _ _ | .amoaddW _ _ _ _ _ | .amoxorW _ _ _ _ _ => true
  | .amoandW _ _ _ _ _ | .amoorW _ _ _ _ _ => true
  | .amominW _ _ _ _ _ | .amomaxW _ _ _ _ _ | .amominuW _ _ _ _ _ | .amomaxuW _ _ _ _ _ => true

end Sys2Proof
end

