-- ==== Sys2Proof/Decode.lean ====
section
/-!
DEFINITION. The decoder (spec/30_encoding.md R140 to R148) and, after it, the encoder, written from the same field
positions (R141 to R144) and fixed bits (R147, spec/opcode_table.json).
-/
namespace Sys2Proof

/-! ### Fields of a word (R141) -/

/-- `rd = w[11:7]`. -/
def fieldRd (w : Word) : Reg := w.extractLsb' 7 5
/-- `rs1 = w[19:15]`; the CSR immediates' `uimm` stands there too (R144). -/
def fieldRs1 (w : Word) : Reg := w.extractLsb' 15 5
/-- `rs2 = w[24:20]`. -/
def fieldRs2 (w : Word) : Reg := w.extractLsb' 20 5
/-- `shamt = w[24:20] & 0x1F` (R143). -/
def fieldShamt (w : Word) : BitVec 5 := w.extractLsb' 20 5
/-- `csr = w[31:20]` (R144). -/
def fieldCsr (w : Word) : CsrAddr := w.extractLsb' 20 12
/-- FENCE's fm, w[31:28], ignored (R145). -/
def fieldFm (w : Word) : BitVec 4 := w.extractLsb' 28 4
/-- FENCE's pred, w[27:24], ignored (R145). -/
def fieldPred (w : Word) : BitVec 4 := w.extractLsb' 24 4
/-- FENCE's succ, w[23:20], ignored (R145). -/
def fieldSucc (w : Word) : BitVec 4 := w.extractLsb' 20 4
/-- aq, w[26], ignored (R145). -/
def fieldAq (w : Word) : Bool := w.getLsbD 26
/-- rl, w[25], ignored (R145). -/
def fieldRl (w : Word) : Bool := w.getLsbD 25

/-! ### Immediates, assembled to 32 bits (R143) -/

/-- `sext_12(w[31:20])`. -/
def immI (w : Word) : Word := (w.extractLsb' 20 12).signExtend 32
/-- `sext_12(cat(w[31:25], w[11:7]))`. -/
def immS (w : Word) : Word := (w.extractLsb' 25 7 ++ w.extractLsb' 7 5).signExtend 32
/-- `sext_13(cat(w[31], w[7], w[30:25], w[11:8], 0))`. -/
def immB (w : Word) : Word :=
  (w.extractLsb' 31 1 ++ w.extractLsb' 7 1 ++ w.extractLsb' 25 6 ++ w.extractLsb' 8 4 ++ 0#1).signExtend 32
/-- `w & 0xFFFFF000`. -/
def immU (w : Word) : Word := w &&& 0xFFFFF000#32
/-- `sext_21(cat(w[31], w[19:12], w[20], w[30:21], 0))`. -/
def immJ (w : Word) : Word :=
  (w.extractLsb' 31 1 ++ w.extractLsb' 12 8 ++ w.extractLsb' 20 1 ++ w.extractLsb' 21 10 ++ 0#1).signExtend 32

/-! ### The mask and match tables (R145; match values R147) -/

/-- One row of the opcode table: the word's bits under `mask` are `bits`, and `read` is its reading. -/
structure Row where
  mask : Word
  bits : Word
  read : Word → Instr

/-- The word selects the row (R145). -/
def Row.selects (r : Row) (w : Word) : Bool := w &&& r.mask == r.bits

/-- Table 1, mask 0x0000007f. -/
def table1 : List Row := [
  ⟨0x0000007f#32, 0x00000017#32, fun w => .auipc (fieldRd w) (immU w)⟩,
  ⟨0x0000007f#32, 0x00000037#32, fun w => .lui (fieldRd w) (immU w)⟩,
  ⟨0x0000007f#32, 0x0000006f#32, fun w => .jal (fieldRd w) (immJ w)⟩]

/-- Rows of table 2 (mask 0x0000707f): JALR and the branches. -/
def table2Control : List Row := [
  ⟨0x0000707f#32, 0x00000063#32, fun w => .beq (fieldRs1 w) (fieldRs2 w) (immB w)⟩,
  ⟨0x0000707f#32, 0x00000067#32, fun w => .jalr (fieldRd w) (fieldRs1 w) (immI w)⟩,
  ⟨0x0000707f#32, 0x00001063#32, fun w => .bne (fieldRs1 w) (fieldRs2 w) (immB w)⟩,
  ⟨0x0000707f#32, 0x00004063#32, fun w => .blt (fieldRs1 w) (fieldRs2 w) (immB w)⟩,
  ⟨0x0000707f#32, 0x00005063#32, fun w => .bge (fieldRs1 w) (fieldRs2 w) (immB w)⟩,
  ⟨0x0000707f#32, 0x00006063#32, fun w => .bltu (fieldRs1 w) (fieldRs2 w) (immB w)⟩,
  ⟨0x0000707f#32, 0x00007063#32, fun w => .bgeu (fieldRs1 w) (fieldRs2 w) (immB w)⟩]

/-- Rows of table 2 (mask 0x0000707f): the loads and stores. -/
def table2Memory : List Row := [
  ⟨0x0000707f#32, 0x00000003#32, fun w => .lb (fieldRd w) (fieldRs1 w) (immI w)⟩,
  ⟨0x0000707f#32, 0x00000023#32, fun w => .sb (fieldRs1 w) (fieldRs2 w) (immS w)⟩,
  ⟨0x0000707f#32, 0x00001003#32, fun w => .lh (fieldRd w) (fieldRs1 w) (immI w)⟩,
  ⟨0x0000707f#32, 0x00001023#32, fun w => .sh (fieldRs1 w) (fieldRs2 w) (immS w)⟩,
  ⟨0x0000707f#32, 0x00002003#32, fun w => .lw (fieldRd w) (fieldRs1 w) (immI w)⟩,
  ⟨0x0000707f#32, 0x00002023#32, fun w => .sw (fieldRs1 w) (fieldRs2 w) (immS w)⟩,
  ⟨0x0000707f#32, 0x00004003#32, fun w => .lbu (fieldRd w) (fieldRs1 w) (immI w)⟩,
  ⟨0x0000707f#32, 0x00005003#32, fun w => .lhu (fieldRd w) (fieldRs1 w) (immI w)⟩]

/-- Rows of table 2 (mask 0x0000707f): the register-immediate instructions. -/
def table2OpImm : List Row := [
  ⟨0x0000707f#32, 0x00000013#32, fun w => .addi (fieldRd w) (fieldRs1 w) (immI w)⟩,
  ⟨0x0000707f#32, 0x00002013#32, fun w => .slti (fieldRd w) (fieldRs1 w) (immI w)⟩,
  ⟨0x0000707f#32, 0x00003013#32, fun w => .sltiu (fieldRd w) (fieldRs1 w) (immI w)⟩,
  ⟨0x0000707f#32, 0x00004013#32, fun w => .xori (fieldRd w) (fieldRs1 w) (immI w)⟩,
  ⟨0x0000707f#32, 0x00006013#32, fun w => .ori (fieldRd w) (fieldRs1 w) (immI w)⟩,
  ⟨0x0000707f#32, 0x00007013#32, fun w => .andi (fieldRd w) (fieldRs1 w) (immI w)⟩]

/-- Rows of table 2 (mask 0x0000707f): the fences and the CSR instructions. -/
def table2System : List Row := [
  ⟨0x0000707f#32, 0x0000000f#32, fun w => .fence (fieldFm w) (fieldPred w) (fieldSucc w) (fieldRs1 w) (fieldRd w)⟩,
  ⟨0x0000707f#32, 0x0000100f#32, fun w => .fenceI (fieldCsr w) (fieldRs1 w) (fieldRd w)⟩,
  ⟨0x0000707f#32, 0x00001073#32, fun w => .csrrw (fieldRd w) (fieldRs1 w) (fieldCsr w)⟩,
  ⟨0x0000707f#32, 0x00002073#32, fun w => .csrrs (fieldRd w) (fieldRs1 w) (fieldCsr w)⟩,
  ⟨0x0000707f#32, 0x00003073#32, fun w => .csrrc (fieldRd w) (fieldRs1 w) (fieldCsr w)⟩,
  ⟨0x0000707f#32, 0x00005073#32, fun w => .csrrwi (fieldRd w) (fieldRs1 w) (fieldCsr w)⟩,
  ⟨0x0000707f#32, 0x00006073#32, fun w => .csrrsi (fieldRd w) (fieldRs1 w) (fieldCsr w)⟩,
  ⟨0x0000707f#32, 0x00007073#32, fun w => .csrrci (fieldRd w) (fieldRs1 w) (fieldCsr w)⟩]

/-- Table 3, mask 0xf800707f. -/
def table3 : List Row := [
  ⟨0xf800707f#32, 0x0000202f#32, fun w => .amoaddW (fieldRd w) (fieldRs1 w) (fieldRs2 w) (fieldAq w) (fieldRl w)⟩,
  ⟨0xf800707f#32, 0x0800202f#32, fun w => .amoswapW (fieldRd w) (fieldRs1 w) (fieldRs2 w) (fieldAq w) (fieldRl w)⟩,
  ⟨0xf800707f#32, 0x1800202f#32, fun w => .scW (fieldRd w) (fieldRs1 w) (fieldRs2 w) (fieldAq w) (fieldRl w)⟩,
  ⟨0xf800707f#32, 0x2000202f#32, fun w => .amoxorW (fieldRd w) (fieldRs1 w) (fieldRs2 w) (fieldAq w) (fieldRl w)⟩,
  ⟨0xf800707f#32, 0x4000202f#32, fun w => .amoorW (fieldRd w) (fieldRs1 w) (fieldRs2 w) (fieldAq w) (fieldRl w)⟩,
  ⟨0xf800707f#32, 0x6000202f#32, fun w => .amoandW (fieldRd w) (fieldRs1 w) (fieldRs2 w) (fieldAq w) (fieldRl w)⟩,
  ⟨0xf800707f#32, 0x8000202f#32, fun w => .amominW (fieldRd w) (fieldRs1 w) (fieldRs2 w) (fieldAq w) (fieldRl w)⟩,
  ⟨0xf800707f#32, 0xa000202f#32, fun w => .amomaxW (fieldRd w) (fieldRs1 w) (fieldRs2 w) (fieldAq w) (fieldRl w)⟩,
  ⟨0xf800707f#32, 0xc000202f#32, fun w => .amominuW (fieldRd w) (fieldRs1 w) (fieldRs2 w) (fieldAq w) (fieldRl w)⟩,
  ⟨0xf800707f#32, 0xe000202f#32, fun w => .amomaxuW (fieldRd w) (fieldRs1 w) (fieldRs2 w) (fieldAq w) (fieldRl w)⟩]

/-- Table 4, mask 0xf9f0707f. -/
def table4 : List Row := [
  ⟨0xf9f0707f#32, 0x1000202f#32, fun w => .lrW (fieldRd w) (fieldRs1 w) (fieldAq w) (fieldRl w)⟩]

/-- Table 5, mask 0xfc00707f. -/
def table5 : List Row := [
  ⟨0xfc00707f#32, 0x00001013#32, fun w => .slli (fieldRd w) (fieldRs1 w) (fieldShamt w) (w.getLsbD 25)⟩,
  ⟨0xfc00707f#32, 0x00005013#32, fun w => .srli (fieldRd w) (fieldRs1 w) (fieldShamt w) (w.getLsbD 25)⟩,
  ⟨0xfc00707f#32, 0x40005013#32, fun w => .srai (fieldRd w) (fieldRs1 w) (fieldShamt w) (w.getLsbD 25)⟩]

/-- Table 6, mask 0xfe00707f. -/
def table6 : List Row := [
  ⟨0xfe00707f#32, 0x00000033#32, fun w => .add (fieldRd w) (fieldRs1 w) (fieldRs2 w)⟩,
  ⟨0xfe00707f#32, 0x00001033#32, fun w => .sll (fieldRd w) (fieldRs1 w) (fieldRs2 w)⟩,
  ⟨0xfe00707f#32, 0x00002033#32, fun w => .slt (fieldRd w) (fieldRs1 w) (fieldRs2 w)⟩,
  ⟨0xfe00707f#32, 0x00003033#32, fun w => .sltu (fieldRd w) (fieldRs1 w) (fieldRs2 w)⟩,
  ⟨0xfe00707f#32, 0x00004033#32, fun w => .xor (fieldRd w) (fieldRs1 w) (fieldRs2 w)⟩,
  ⟨0xfe00707f#32, 0x00005033#32, fun w => .srl (fieldRd w) (fieldRs1 w) (fieldRs2 w)⟩,
  ⟨0xfe00707f#32, 0x00006033#32, fun w => .or (fieldRd w) (fieldRs1 w) (fieldRs2 w)⟩,
  ⟨0xfe00707f#32, 0x00007033#32, fun w => .and (fieldRd w) (fieldRs1 w) (fieldRs2 w)⟩,
  ⟨0xfe00707f#32, 0x02000033#32, fun w => .mul (fieldRd w) (fieldRs1 w) (fieldRs2 w)⟩,
  ⟨0xfe00707f#32, 0x02001033#32, fun w => .mulh (fieldRd w) (fieldRs1 w) (fieldRs2 w)⟩,
  ⟨0xfe00707f#32, 0x02002033#32, fun w => .mulhsu (fieldRd w) (fieldRs1 w) (fieldRs2 w)⟩,
  ⟨0xfe00707f#32, 0x02003033#32, fun w => .mulhu (fieldRd w) (fieldRs1 w) (fieldRs2 w)⟩,
  ⟨0xfe00707f#32, 0x02004033#32, fun w => .div (fieldRd w) (fieldRs1 w) (fieldRs2 w)⟩,
  ⟨0xfe00707f#32, 0x02005033#32, fun w => .divu (fieldRd w) (fieldRs1 w) (fieldRs2 w)⟩,
  ⟨0xfe00707f#32, 0x02006033#32, fun w => .rem (fieldRd w) (fieldRs1 w) (fieldRs2 w)⟩,
  ⟨0xfe00707f#32, 0x02007033#32, fun w => .remu (fieldRd w) (fieldRs1 w) (fieldRs2 w)⟩,
  ⟨0xfe00707f#32, 0x40000033#32, fun w => .sub (fieldRd w) (fieldRs1 w) (fieldRs2 w)⟩,
  ⟨0xfe00707f#32, 0x40005033#32, fun w => .sra (fieldRd w) (fieldRs1 w) (fieldRs2 w)⟩]

/-- Table 7, mask 0xfe007fff. -/
def table7 : List Row := [
  ⟨0xfe007fff#32, 0x12000073#32, fun w => .sfenceVma (fieldRs1 w) (fieldRs2 w)⟩]

/-- Table 8, mask 0xffffffff. -/
def table8 : List Row := [
  ⟨0xffffffff#32, 0x00000073#32, fun _ => .ecall⟩,
  ⟨0xffffffff#32, 0x00100073#32, fun _ => .ebreak⟩,
  ⟨0xffffffff#32, 0x10200073#32, fun _ => .sret⟩,
  ⟨0xffffffff#32, 0x10500073#32, fun _ => .wfi⟩,
  ⟨0xffffffff#32, 0x30200073#32, fun _ => .mret⟩]

/-- All rows, in the table order of R145. -/
def opcodeRows : List Row :=
  table1 ++ (table2Control ++ table2Memory ++ table2OpImm ++ table2System) ++ table3 ++ table4 ++ table5 ++ table6
    ++ table7 ++ table8

/-- Why there is no instruction. -/
inductive DecodeError where
  /-- No row is selected: IllegalInstruction with the word as its value (R146). -/
  | noTableRow (w : Word)
  /-- Fewer than four bytes: no word to decode (R140). Never met by a fetch, which reads four bytes. -/
  | truncated
deriving DecidableEq, Repr

/-- Decoding of a word: the first row, in table order, that the word selects (R145, R146). -/
def decode (w : Word) : Except DecodeError Instr :=
  match opcodeRows.find? (fun r => r.selects w) with
  | some r => .ok (r.read w)
  | none => .error (.noTableRow w)

/-- Four bytes as a word, the byte at the lowest address least significant (20_memory.md R71). -/
def wordOfBytes (b0 b1 b2 b3 : Byte) : Word := b3 ++ b2 ++ b1 ++ b0

/-- Decoding of bytes, lowest address first: one instruction is four bytes (R140). -/
def decodeBytes : List Byte → Except DecodeError (Instr × List Byte)
  | b0 :: b1 :: b2 :: b3 :: rest =>
    match decode (wordOfBytes b0 b1 b2 b3) with
    | .ok i => .ok (i, rest)
    | .error e => .error e
  | _ => .error .truncated

/-! ### The encoder -/

/-- R format (R142). -/
def encodeR (f7 : BitVec 7) (rs2 rs1 : Reg) (f3 : BitVec 3) (rd : Reg) (op : BitVec 7) : Word :=
  f7 ++ rs2 ++ rs1 ++ f3 ++ rd ++ op
/-- The atomics' R format, with funct5, aq and rl in place of funct7 (R141). -/
def encodeAmo (f5 : BitVec 5) (aq rl : Bool) (rs2 rs1 : Reg) (f3 : BitVec 3) (rd : Reg) (op : BitVec 7) : Word :=
  f5 ++ BitVec.ofBool aq ++ BitVec.ofBool rl ++ rs2 ++ rs1 ++ f3 ++ rd ++ op
/-- Twelve plain bits in w[31:20]: the CSR format (R144) and the fences. -/
def encodeRaw (hi : BitVec 12) (rs1 : BitVec 5) (f3 : BitVec 3) (rd : Reg) (op : BitVec 7) : Word :=
  hi ++ rs1 ++ f3 ++ rd ++ op
/-- I format (R143). -/
def encodeI (imm : Word) (rs1 : Reg) (f3 : BitVec 3) (rd : Reg) (op : BitVec 7) : Word :=
  encodeRaw (imm.extractLsb' 0 12) rs1 f3 rd op
/-- Immediate shifts: w[31:26] fixed, w[25] ignored, the shift amount in w[24:20] (R143, R145). -/
def encodeShift (f6 : BitVec 6) (b25 : Bool) (shamt rs1 : BitVec 5) (f3 : BitVec 3) (rd : Reg) (op : BitVec 7) : Word :=
  f6 ++ BitVec.ofBool b25 ++ shamt ++ rs1 ++ f3 ++ rd ++ op
/-- S format (R143). -/
def encodeS (imm : Word) (rs2 rs1 : Reg) (f3 : BitVec 3) (op : BitVec 7) : Word :=
  imm.extractLsb' 5 7 ++ rs2 ++ rs1 ++ f3 ++ imm.extractLsb' 0 5 ++ op
/-- B format (R143). -/
def encodeB (imm : Word) (rs2 rs1 : Reg) (f3 : BitVec 3) (op : BitVec 7) : Word :=
  imm.extractLsb' 12 1 ++ imm.extractLsb' 5 6 ++ rs2 ++ rs1 ++ f3 ++ imm.extractLsb' 1 4 ++ imm.extractLsb' 11 1 ++ op
/-- U format (R143). -/
def encodeU (imm : Word) (rd : Reg) (op : BitVec 7) : Word :=
  imm.extractLsb' 12 20 ++ rd ++ op
/-- J format (R143). -/
def encodeJ (imm : Word) (rd : Reg) (op : BitVec 7) : Word :=
  imm.extractLsb' 20 1 ++ imm.extractLsb' 1 10 ++ imm.extractLsb' 11 1 ++ imm.extractLsb' 12 8 ++ rd ++ op

/-- The word of an instruction, its fields where R141 to R144 put them and the fixed bits of R147. -/
def encode : Instr → Word
  | .lui rd imm => encodeU imm rd 0x37#7
  | .auipc rd imm => encodeU imm rd 0x17#7
  | .jal rd imm => encodeJ imm rd 0x6f#7
  | .jalr rd rs1 imm => encodeI imm rs1 0#3 rd 0x67#7
  | .beq rs1 rs2 imm => encodeB imm rs2 rs1 0#3 0x63#7
  | .bne rs1 rs2 imm => encodeB imm rs2 rs1 1#3 0x63#7
  | .blt rs1 rs2 imm => encodeB imm rs2 rs1 4#3 0x63#7
  | .bge rs1 rs2 imm => encodeB imm rs2 rs1 5#3 0x63#7
  | .bltu rs1 rs2 imm => encodeB imm rs2 rs1 6#3 0x63#7
  | .bgeu rs1 rs2 imm => encodeB imm rs2 rs1 7#3 0x63#7
  | .lb rd rs1 imm => encodeI imm rs1 0#3 rd 0x03#7
  | .lh rd rs1 imm => encodeI imm rs1 1#3 rd 0x03#7
  | .lw rd rs1 imm => encodeI imm rs1 2#3 rd 0x03#7
  | .lbu rd rs1 imm => encodeI imm rs1 4#3 rd 0x03#7
  | .lhu rd rs1 imm => encodeI imm rs1 5#3 rd 0x03#7
  | .sb rs1 rs2 imm => encodeS imm rs2 rs1 0#3 0x23#7
  | .sh rs1 rs2 imm => encodeS imm rs2 rs1 1#3 0x23#7
  | .sw rs1 rs2 imm => encodeS imm rs2 rs1 2#3 0x23#7
  | .addi rd rs1 imm => encodeI imm rs1 0#3 rd 0x13#7
  | .slti rd rs1 imm => encodeI imm rs1 2#3 rd 0x13#7
  | .sltiu rd rs1 imm => encodeI imm rs1 3#3 rd 0x13#7
  | .xori rd rs1 imm => encodeI imm rs1 4#3 rd 0x13#7
  | .ori rd rs1 imm => encodeI imm rs1 6#3 rd 0x13#7
  | .andi rd rs1 imm => encodeI imm rs1 7#3 rd 0x13#7
  | .slli rd rs1 shamt b25 => encodeShift 0x00#6 b25 shamt rs1 1#3 rd 0x13#7
  | .srli rd rs1 shamt b25 => encodeShift 0x00#6 b25 shamt rs1 5#3 rd 0x13#7
  | .srai rd rs1 shamt b25 => encodeShift 0x10#6 b25 shamt rs1 5#3 rd 0x13#7
  | .add rd rs1 rs2 => encodeR 0x00#7 rs2 rs1 0#3 rd 0x33#7
  | .sub rd rs1 rs2 => encodeR 0x20#7 rs2 rs1 0#3 rd 0x33#7
  | .sll rd rs1 rs2 => encodeR 0x00#7 rs2 rs1 1#3 rd 0x33#7
  | .slt rd rs1 rs2 => encodeR 0x00#7 rs2 rs1 2#3 rd 0x33#7
  | .sltu rd rs1 rs2 => encodeR 0x00#7 rs2 rs1 3#3 rd 0x33#7
  | .xor rd rs1 rs2 => encodeR 0x00#7 rs2 rs1 4#3 rd 0x33#7
  | .srl rd rs1 rs2 => encodeR 0x00#7 rs2 rs1 5#3 rd 0x33#7
  | .sra rd rs1 rs2 => encodeR 0x20#7 rs2 rs1 5#3 rd 0x33#7
  | .or rd rs1 rs2 => encodeR 0x00#7 rs2 rs1 6#3 rd 0x33#7
  | .and rd rs1 rs2 => encodeR 0x00#7 rs2 rs1 7#3 rd 0x33#7
  | .fence fm pred succ rs1 rd => encodeRaw (fm ++ pred ++ succ) rs1 0#3 rd 0x0f#7
  | .fenceI imm rs1 rd => encodeRaw imm rs1 1#3 rd 0x0f#7
  | .sfenceVma rs1 rs2 => encodeR 0x09#7 rs2 rs1 0#3 0#5 0x73#7
  | .wfi => 0x10500073#32
  | .ecall => 0x00000073#32
  | .ebreak => 0x00100073#32
  | .mret => 0x30200073#32
  | .sret => 0x10200073#32
  | .csrrw rd rs1 csr => encodeRaw csr rs1 1#3 rd 0x73#7
  | .csrrs rd rs1 csr => encodeRaw csr rs1 2#3 rd 0x73#7
  | .csrrc rd rs1 csr => encodeRaw csr rs1 3#3 rd 0x73#7
  | .csrrwi rd uimm csr => encodeRaw csr uimm 5#3 rd 0x73#7
  | .csrrsi rd uimm csr => encodeRaw csr uimm 6#3 rd 0x73#7
  | .csrrci rd uimm csr => encodeRaw csr uimm 7#3 rd 0x73#7
  | .mul rd rs1 rs2 => encodeR 0x01#7 rs2 rs1 0#3 rd 0x33#7
  | .mulh rd rs1 rs2 => encodeR 0x01#7 rs2 rs1 1#3 rd 0x33#7
  | .mulhsu rd rs1 rs2 => encodeR 0x01#7 rs2 rs1 2#3 rd 0x33#7
  | .mulhu rd rs1 rs2 => encodeR 0x01#7 rs2 rs1 3#3 rd 0x33#7
  | .div rd rs1 rs2 => encodeR 0x01#7 rs2 rs1 4#3 rd 0x33#7
  | .divu rd rs1 rs2 => encodeR 0x01#7 rs2 rs1 5#3 rd 0x33#7
  | .rem rd rs1 rs2 => encodeR 0x01#7 rs2 rs1 6#3 rd 0x33#7
  | .remu rd rs1 rs2 => encodeR 0x01#7 rs2 rs1 7#3 rd 0x33#7
  | .lrW rd rs1 aq rl => encodeAmo 0x02#5 aq rl 0#5 rs1 2#3 rd 0x2f#7
  | .scW rd rs1 rs2 aq rl => encodeAmo 0x03#5 aq rl rs2 rs1 2#3 rd 0x2f#7
  | .amoswapW rd rs1 rs2 aq rl => encodeAmo 0x01#5 aq rl rs2 rs1 2#3 rd 0x2f#7
  | .amoaddW rd rs1 rs2 aq rl => encodeAmo 0x00#5 aq rl rs2 rs1 2#3 rd 0x2f#7
  | .amoxorW rd rs1 rs2 aq rl => encodeAmo 0x04#5 aq rl rs2 rs1 2#3 rd 0x2f#7
  | .amoandW rd rs1 rs2 aq rl => encodeAmo 0x0c#5 aq rl rs2 rs1 2#3 rd 0x2f#7
  | .amoorW rd rs1 rs2 aq rl => encodeAmo 0x08#5 aq rl rs2 rs1 2#3 rd 0x2f#7
  | .amominW rd rs1 rs2 aq rl => encodeAmo 0x10#5 aq rl rs2 rs1 2#3 rd 0x2f#7
  | .amomaxW rd rs1 rs2 aq rl => encodeAmo 0x14#5 aq rl rs2 rs1 2#3 rd 0x2f#7
  | .amominuW rd rs1 rs2 aq rl => encodeAmo 0x18#5 aq rl rs2 rs1 2#3 rd 0x2f#7
  | .amomaxuW rd rs1 rs2 aq rl => encodeAmo 0x1c#5 aq rl rs2 rs1 2#3 rd 0x2f#7

/-- The bytes of a word as the hardware stores them, lowest address first (20_memory.md R71). -/
def bytesOfWord (w : Word) : List Byte :=
  [w.extractLsb' 0 8, w.extractLsb' 8 8, w.extractLsb' 16 8, w.extractLsb' 24 8]

/-- The instruction the decoder reads from `nbits` table bits `w`, the bits above `nbits` being zero. Every row of the
opcode table has 32 bits, bit 0 the least significant bit of the word (R140). -/
def decodeTableWord (nbits w : Nat) : Option Instr :=
  if nbits ≤ 32 then
    match decodeBytes (bytesOfWord (BitVec.ofNat 32 (w % 2 ^ nbits))) with
    | .ok (i, _) => some i
    | .error _ => none
  else none

end Sys2Proof
end

