-- ==== Sys2Proof/Machine/Bits.lean ====
section
/-!
DEFINITION. Bits and bytes of a word (spec/00_scope.md R10).
-/
namespace Sys2Proof.Machine

/-- `v` with bit `i` set to `b`. -/
def putBit {n : Nat} (v : BitVec n) (i : Nat) (b : Bool) : BitVec n :=
  if b then v ||| (1#n <<< i) else v &&& ~~~(1#n <<< i)

/-- Byte `i` of `v`, byte 0 the least significant (R71). -/
def byteAt {n : Nat} (v : BitVec n) (i : Nat) : Byte := v.extractLsb' (8 * i) 8

/-- `v` with its byte `i` replaced by `b`. -/
def putByte {n : Nat} (v : BitVec n) (i : Nat) (b : Byte) : BitVec n :=
  (v &&& ~~~((0xFF#8).setWidth n <<< (8 * i))) ||| (b.setWidth n <<< (8 * i))

/-- A truth value as the word 1 or 0. -/
def boolWord (b : Bool) : Word := if b then 1#32 else 0#32

end Sys2Proof.Machine
end

