-- ==== Sys2Proof/Config.lean ====
section
/-!
DEFINITION. What is fixed for one machine (the named parameters of spec/00_scope.md R9) and the free values (the
host draws of spec/70_reset_and_hazards.md R512).
-/
namespace Sys2Proof

/-- The named parameters of R9, placed before the first tick and never changed. The machine's state carries them, so a
statement about every state holds for every value of them. RAM_INIT and the MTD contents are the initial memory. -/
structure Launch where
  /-- MEM_SIZE, bytes of RAM at 0x80000000 (D2). -/
  memSize : Nat
  /-- MTD_SIZE, bytes of the MTD window at 0x40000000 (D3). -/
  mtdSize : Nat
  /-- MTD_WRITABLE (D3). -/
  mtdWritable : Bool
  /-- DTB_IMAGE, the bytes seen at 0x1020 (D27). -/
  dtbImage : List Byte
  /-- RESERVATION_CLEARED_ON_TRAP (D11). -/
  reservationClearedOnTrap : Bool
  /-- XRET_PRIV_CHECK (D12). -/
  xretPrivCheck : Bool
  /-- ECALL_EXIT_ENABLED (D29). -/
  ecallExitEnabled : Bool
deriving DecidableEq, Repr

/-- The parameters of the reset state. The three Boolean ones that have a default in the spec have it (D11, D12, D29).
DESIGN CHOICE (log 1): MEM_SIZE is the largest R9 admits, the MTD window is empty and not writable, no DTB is loaded. -/
def Config.launch : Launch where
  memSize := 0x80000000
  mtdSize := 0
  mtdWritable := false
  dtbImage := []
  reservationClearedOnTrap := true
  xretPrivCheck := true
  ecallExitEnabled := false

/-- R9's requirement on the sizes: the windows of the address map stay disjoint. -/
def Launch.ok (c : Launch) : Bool :=
  decide (0 < c.memSize) && decide (c.memSize ≤ 0x80000000) && decide (c.mtdSize ≤ 0x40000000) && decide (c.dtbImage.length ≤ 0xFE0)

/-- The wall clock of the RTC snapshot, before its BCD coding: eight numbers in the ranges R97 gives. DESIGN CHOICE
(log 15): the century, for which R97 gives no range, is any two-digit number, and the weekday is 0 to 7, which covers
both countings R97 allows. -/
structure WallClock where
  century : Fin 100
  seconds : Fin 60
  minutes : Fin 60
  hours : Fin 24
  weekday : Fin 8
  /-- day of the month, less one -/
  day0 : Fin 31
  /-- month, less one -/
  month0 : Fin 12
  year : Fin 100
deriving DecidableEq, Repr, Inhabited

/-- Host draw UartIn (R94, R512): a byte or none, for the n-th draw. A free value (log 3). -/
opaque Config.uartIn : Nat → Option Byte

/-- Host draw NetRxReady (R50, R512): what a read of CSR 0x0C3 returns at the n-th draw. A free value (log 3). -/
opaque Config.netRxReady : Nat → Word

/-- Host draw of the wall clock (R97, R512) at the n-th draw. A free value (log 3). -/
opaque Config.wallClock : Nat → WallClock

end Sys2Proof
end

