-- ==== Sys2Proof/Machine/State.lean ====
section
/-!
DEFINITION. The state of the machine (spec/10_state.md; reset: R51 and spec/70_reset_and_hazards.md R500) and the
reasons a step can stop.
-/
namespace Sys2Proof.Machine

/-- A privilege mode: U = 0, S = 1, M = 3 (R15, R24). The value 2 does not exist. -/
inductive Priv where
  | u
  | s
  | m
deriving DecidableEq, Repr

/-- Translation off or Sv32 (R28). -/
inductive MmuMode where
  | off
  | sv32
deriving DecidableEq, Repr

/-- The MMU's copy of satp (R28). -/
structure Mmu where
  mode : MmuMode
  ppn : BitVec 22
deriving DecidableEq, Repr

/-- The CLINT (R29). -/
structure Clint where
  msip : Bool
  mtimecmp : BitVec 64
  mtime : BitVec 64
deriving DecidableEq, Repr

/-- The UART (R30). IIR is computed when read (R91). -/
structure Uart where
  rbr : Byte
  thr : Byte
  ier : Byte
  lcr : Byte
  mcr : Byte
  lsr : Byte
  scr : Byte
  threIp : Bool
  rxIp : Bool
deriving DecidableEq, Repr

/-- The RTC's two registers (R31). -/
structure Rtc where
  rtc0 : Word
  rtc1 : Word
deriving DecidableEq, Repr

/-- Plain byte storage by physical address: RAM, the network buffers and the MTD window (R32, R33). Addresses strictly
rise and no byte equal to `Memory.unlisted` is listed (`Memory.wf`). -/
abbrev Memory := List Host.Cell

/-- What an unlisted address reads as: RAM bytes no loader writes are 0 (D34), the network buffers reset to 0 (D1). -/
def Memory.unlisted : Byte := 0#8

/-- The CSR array's entries that are not 0, addresses strictly rising (R27). -/
abbrev CsrFile := List (Nat × Word)

/-- What the hardware tells the host (R512). -/
inductive HostEvent where
  /-- UartOut: the byte left THR (R93). -/
  | uartOut (b : Byte)
  /-- NetSend: the first `size` bytes of the TX buffer go out as one frame (R50); `txBuffer` is the buffer's listed
  bytes at that moment, by offset. -/
  | netSend (size : Word) (txBuffer : List Host.Cell)
deriving DecidableEq, Repr

/-- What the host does between two ticks (R512; log 4). -/
inductive HostMove where
  /-- Nothing a program can see (sleeping included). -/
  | idle
  /-- Bytes of a received frame go into the RX buffer, each at its offset; with them MIP.SEIP may be set (D33). -/
  | receive (bytes : List (Fin 4096 × Byte)) (seip : Bool)
deriving DecidableEq, Repr

/-- The model's side of the host interface; no spec state (log 3, 4, 5). -/
structure HostPort where
  /-- how many draws have been made: the argument of the free values of Config -/
  draws : Nat
  /-- events emitted so far, oldest first -/
  events : List HostEvent
  /-- what the host will do before each coming tick -/
  inbox : List HostMove
deriving DecidableEq, Repr

/-- The state of the CORE block (R51), the launch parameters (R9), the mark `exited` of R34 and the model's own fields
`host` and `raised`. -/
structure State where
  /-- launch parameters, never changed -/
  cfg : Launch
  /-- x0 to x31 (R20); x0 is read and written through `State.reg` and `State.setReg` only -/
  regs : Vector Word 32
  /-- R22 -/
  pc : Word
  /-- R24 -/
  priv : Priv
  /-- R25 -/
  clock : Word
  /-- R26 -/
  reservation : Option Word
  /-- R27 -/
  csrs : CsrFile
  /-- R28 -/
  mmu : Mmu
  /-- R29 -/
  clint : Clint
  /-- R30 -/
  uart : Uart
  /-- R31 -/
  rtc : Rtc
  /-- R32, R33 -/
  mem : Memory
  /-- the model's own: draws, events, pending host moves -/
  host : HostPort
  /-- the model's own: this tick's instruction raised an exception (`ret.trap` of R12); false between ticks (log 8) -/
  raised : Bool
  /-- `exited(status)` of R34 -/
  exited : Option Word
deriving DecidableEq, Repr

/-- Where the machine stops with a fault. -/
inductive Fault where
  /-- Raised by `step` on a state whose mark `exited` is set: "Once either is set no further tick runs" (R34). Safe. -/
  | runEnded
deriving DecidableEq, Repr

/-- Where the machine gives no meaning. -/
inductive Refusal where
  /-- Raised by an arm of `exec` that has no meaning yet; no arm does. Safe. -/
  | notModelled (mnemonic : String)
  /-- Raised by MRET with mstatus.MPP = 2: the spec marks the run refused (R346, D14). Safe. -/
  | mretToReservedMode
  /-- Raised by a trap whose target would be U: the spec marks the run refused (R414, D15). Safe. -/
  | trapToUser
deriving DecidableEq, Repr

/-- The general registers at reset: x11 = 0x1020, the others 0 (R20, R500). -/
def State.resetRegs : Vector Word 32 := (Vector.replicate 32 0#32).set 11 0x1020#32

/-- The machine right after reset (R500). The launch parameters, the memory's contents and the host port are the
model's choice (log 1, 3, 4, 5). -/
def State.reset : State where
  cfg := Config.launch
  regs := State.resetRegs
  pc := 0x80000000#32
  priv := .m
  clock := 0
  reservation := none
  csrs := [(0x301, 0x40141101#32)]
  mmu := { mode := .off, ppn := 0 }
  clint := { msip := false, mtimecmp := 0, mtime := 0 }
  uart := { rbr := 0, thr := 0, ier := 0, lcr := 0, mcr := 0, lsr := 0x60#8, scr := 0, threIp := false, rxIp := false }
  rtc := { rtc0 := 0, rtc1 := 0 }
  mem := []
  host := { draws := 0, events := [], inbox := [] }
  raised := false
  exited := none

end Sys2Proof.Machine
end

