-- ==== Sys2Proof/Machine/Devices.lean ====
section
/-!
DEFINITION. The devices' own byte registers: UART (spec/20_memory.md R88 to R91), CLINT (spec/60_exceptions.md R432),
RTC (spec/20_memory.md R96, R97). What an access does to the rest of the machine is in Ops.
-/
namespace Sys2Proof.Machine

/-! ### UART -/

/-- DLAB, LCR bit 7 (R88). -/
def Uart.dlab (u : Uart) : Bool := u.lcr.getLsbD 7

/-- IIR, from the flags at the moment of the read (R91). -/
def Uart.iir (u : Uart) : Byte := if u.rxIp then 4#8 else if u.threIp then 2#8 else 7#8

/-- The interrupt line (R95). -/
def Uart.interrupting (u : Uart) : Bool := u.threIp || u.rxIp

/-- The byte a read at offset `o` returns (R89). -/
def uartReadValue (o : Nat) (u : Uart) : Byte :=
  match o with
  | 0 => if u.dlab then 0#8 else u.rbr
  | 1 => if u.dlab then 0#8 else u.ier
  | 2 => u.iir
  | 3 => u.lcr
  | 4 => u.mcr
  | 5 => u.lsr
  | 7 => u.scr
  | _ => 0#8

/-- What a read at offset `o` does to the UART: RBR is cleared with LSR bit 0 and `rx_ip`; an IIR read that reports
THR_EMPTY clears `thre_ip` (R89). -/
def uartReadEffect (o : Nat) (u : Uart) : Uart :=
  match o with
  | 0 => if u.dlab then u else { u with rbr := 0#8, lsr := putBit u.lsr 0 false, rxIp := false }
  | 2 => if u.iir = 2#8 then { u with threIp := false } else u
  | _ => u

/-- A write of `b` at offset `o` (R90). -/
def uartWrite (o : Nat) (b : Byte) (u : Uart) : Uart :=
  match o with
  | 0 => if u.dlab then u else { u with thr := b, lsr := putBit u.lsr 5 false, threIp := false }
  | 1 => if u.dlab then u else { u with ier := b }
  | 3 => { u with lcr := b }
  | 4 => { u with mcr := b }
  | 7 => { u with scr := b }
  | _ => u

/-- The UART after THR's byte has gone out (R93). -/
def uartSent (u : Uart) : Uart :=
  { u with thr := 0#8, lsr := putBit u.lsr 5 true, threIp := u.threIp || u.ier.getLsbD 1 }

/-- The UART after the host's byte `b` has come in (R94). -/
def uartReceived (b : Byte) (u : Uart) : Uart :=
  { u with rbr := b, lsr := putBit u.lsr 0 true, rxIp := u.rxIp || u.ier.getLsbD 0 }

/-! ### CLINT -/

/-- The byte a read at offset `o` from 0x02000000 returns (R432); 0x4000 and 0xBFF8 are multiples of 8, so byte i of a
register is at the offset that is i modulo 8. -/
def clintRead (o : Nat) (c : Clint) : Byte :=
  if o = 0 then (if c.msip then 1#8 else 0#8)
  else if 0x4000 ≤ o ∧ o ≤ 0x4007 then byteAt c.mtimecmp (o % 8)
  else if 0xBFF8 ≤ o ∧ o ≤ 0xBFFF then byteAt c.mtime (o % 8)
  else 0#8

/-! ### RTC -/

/-- The byte a read at offset `o` of the RTC window returns (R87, R96); byte i of a register is at the offset that is i
modulo 4. -/
def rtcRead (o : Nat) (r : Rtc) : Byte :=
  if 0x7F8 ≤ o ∧ o ≤ 0x7FB then byteAt r.rtc0 (o % 4)
  else if 0x7FC ≤ o ∧ o ≤ 0x7FF then byteAt r.rtc1 (o % 4)
  else 0#8

/-- Two BCD digits (R96). -/
def bcd (n : Nat) : Byte := BitVec.ofNat 8 (16 * (n / 10) + n % 10)

/-- The RTC after a snapshot of the wall clock `t` (R96, R97). -/
def rtcSnapshot (t : WallClock) : Rtc where
  rtc0 := wordOfBytes (bcd t.century) (bcd t.seconds) (bcd t.minutes) (bcd t.hours)
  rtc1 := wordOfBytes (bcd t.weekday) (bcd (t.day0 + 1)) (bcd (t.month0 + 1)) (bcd t.year)

end Sys2Proof.Machine
end

