-- ==== Sys2Proof/Machine/Flags.lean ====
section
/-!
DEFINITION. The status computations. The machine has no condition flags; its status is mstatus (spec/10_state.md R37),
with the stacks that trap entry (spec/60_exceptions.md R416) and the trap returns (spec/46_system.md R346, R347) move.
-/
namespace Sys2Proof.Machine

/-- The two-bit code of a mode (R15). -/
def Priv.code : Priv → BitVec 2
  | .u => 0#2
  | .s => 1#2
  | .m => 3#2

/-- The mode of a two-bit code; 2 is none (R24). -/
def Priv.ofCode (c : BitVec 2) : Option Priv :=
  if c = 0#2 then some .u else if c = 1#2 then some .s else if c = 3#2 then some .m else none

/-- Modes compare as the numbers U = 0, S = 1, M = 3 (R15). -/
def Priv.level (p : Priv) : Nat := p.code.toNat

/-- mstatus bits sstatus shows (R38). -/
def sstatusMask : Word := 0x000de162#32
/-- mie and mip bits sie and sip show (R40). -/
def sieMask : Word := 0x222#32
/-- mideleg bits a write stores (R41). -/
def midelegMask : Word := 0x666#32

/-- A write of `v` through a view with mask `k` on a register that holds `old` (R38, R40). -/
def viewWrite (k old v : Word) : Word := (old &&& ~~~k) ||| (v &&& k)

/-- mstatus.MPP, bits 12:11 (R37). -/
def mppOf (ms : Word) : BitVec 2 := ms.extractLsb' 11 2

/-- mstatus after a trap entry to M: MPIE ← MIE, MPP ← the mode, MIE ← 0 (R416). -/
def mstatusEnterM (ms : Word) (p : Priv) : Word :=
  (ms &&& ~~~0x1888#32) ||| (boolWord (ms.getLsbD 3) <<< 7) ||| (p.code.setWidth 32 <<< 11)

/-- mstatus after a trap entry to S: SPIE ← SIE, SPP ← 0 from U and 1 otherwise, SIE ← 0 (R416, D17). -/
def mstatusEnterS (ms : Word) (p : Priv) : Word :=
  (ms &&& ~~~0x122#32) ||| (boolWord (ms.getLsbD 1) <<< 5) ||| ((if p = .u then 0#32 else 1#32) <<< 8)

/-- mstatus after MRET to the mode `prev`: MIE ← MPIE, MPIE ← 1, MPP ← U, MPRV ← 0 below M (R346, D16). -/
def mstatusMret (ms : Word) (prev : Priv) : Word :=
  let a := putBit ms 3 (ms.getLsbD 7)
  let b := putBit a 7 true
  let c := putBit (putBit b 11 false) 12 false
  if prev = .m then c else putBit c 17 false

/-- mstatus after SRET: SIE ← SPIE, SPIE ← 1, SPP ← U, MPRV ← 0 (R347). -/
def mstatusSret (ms : Word) : Word :=
  let a := putBit ms 1 (ms.getLsbD 5)
  let b := putBit a 5 true
  let c := putBit b 8 false
  putBit c 17 false

end Sys2Proof.Machine
end

