-- ==== Sys2Proof/Machine/Sparse.lean ====
section
/-!
DEFINITION. Association lists in one canonical form: keys strictly rise and no key holds the default value. The memory
and the CSR array are kept so, which makes equal contents equal data.
-/
namespace Sys2Proof.Machine

/-- The value at a key; an unlisted key holds the default `d`. -/
def Sparse.read {α : Type} (d : α) : List (Nat × α) → Nat → α
  | [], _ => d
  | (k, w) :: m, a => if a = k then w else Sparse.read d m a

/-- The list with `v` at key `a`; writing the default removes the entry. -/
def Sparse.write {α : Type} [DecidableEq α] (d : α) : List (Nat × α) → Nat → α → List (Nat × α)
  | [], a, v => if v = d then [] else [(a, v)]
  | (k, w) :: m, a, v =>
    if a < k then (if v = d then (k, w) :: m else (a, v) :: (k, w) :: m)
    else if a = k then (if v = d then m else (a, v) :: m)
    else (k, w) :: Sparse.write d m a v

/-- The canonical form. -/
def Sparse.wf {α : Type} [DecidableEq α] (d : α) : List (Nat × α) → Bool
  | [] => true
  | (k, w) :: m => !decide (w = d) && m.all (fun c => decide (k < c.1)) && Sparse.wf d m

end Sys2Proof.Machine
end

