-- ==== Sys2Proof/Machine/Ops.lean ====
section
/-!
DEFINITION. The named operations every meaning is written with: registers, the CSR file, the bus, translation, taking
an exception and returning from one.
-/
namespace Sys2Proof.Machine

/-- What a meaning answers. -/
abbrev Result := Host.Outcome State Fault Refusal

/-! ### General registers and pc -/

/-- Read of a general register; x0 reads 0 (R20). -/
def State.reg (s : State) (r : Reg) : Word := if r = 0#5 then 0#32 else s.regs[r.toNat]'(r.isLt)

/-- Write of a general register at commit; a write to x0 is discarded (R20, R502). -/
def State.setReg (s : State) (r : Reg) (v : Word) : State :=
  { s with regs := if r = 0#5 then s.regs else s.regs.set r.toNat v r.isLt }

/-- pc ← pc + 4 (R12, R23). -/
def State.advance (s : State) : State := { s with pc := s.pc + 4#32 }

/-- The common end of an instruction that writes rd and goes on at pc + 4 (R12, R502). -/
def retire (rd : Reg) (v : Word) (s : State) : Result := .next (s.setReg rd v).advance

/-! ### CSR file -/

/-- Raw entry of the CSR array (R27). -/
def State.csr (s : State) (a : CsrAddr) : Word := Sparse.read 0#32 s.csrs a.toNat

/-- Raw write of an entry of the CSR array (R27). -/
def State.setCsr (s : State) (a : CsrAddr) (v : Word) : State :=
  { s with csrs := Sparse.write 0#32 s.csrs a.toNat v }

/-! CSR addresses (R36). -/

abbrev csrNetTxBase : CsrAddr := 0x0C0#12
abbrev csrNetTxSend : CsrAddr := 0x0C1#12
abbrev csrNetRxBase : CsrAddr := 0x0C2#12
abbrev csrNetRxReady : CsrAddr := 0x0C3#12
abbrev csrSstatus : CsrAddr := 0x100#12
abbrev csrSedeleg : CsrAddr := 0x102#12
abbrev csrSideleg : CsrAddr := 0x103#12
abbrev csrSie : CsrAddr := 0x104#12
abbrev csrStvec : CsrAddr := 0x105#12
abbrev csrSepc : CsrAddr := 0x141#12
abbrev csrScause : CsrAddr := 0x142#12
abbrev csrStval : CsrAddr := 0x143#12
abbrev csrSip : CsrAddr := 0x144#12
abbrev csrSatp : CsrAddr := 0x180#12
abbrev csrMstatus : CsrAddr := 0x300#12
abbrev csrMisa : CsrAddr := 0x301#12
abbrev csrMedeleg : CsrAddr := 0x302#12
abbrev csrMideleg : CsrAddr := 0x303#12
abbrev csrMie : CsrAddr := 0x304#12
abbrev csrMtvec : CsrAddr := 0x305#12
abbrev csrMepc : CsrAddr := 0x341#12
abbrev csrMcause : CsrAddr := 0x342#12
abbrev csrMtval : CsrAddr := 0x343#12
abbrev csrMip : CsrAddr := 0x344#12
abbrev csrMcycle : CsrAddr := 0xB00#12
abbrev csrCycle : CsrAddr := 0xC00#12
abbrev csrTime : CsrAddr := 0xC01#12

/-- Bit `p` of mip becomes `b`: by the CLINT, the UART, a delivered interrupt or the host (R39). -/
def State.setMip (s : State) (p : Nat) (b : Bool) : State := s.setCsr csrMip (putBit (s.csr csrMip) p b)

/-- satp as it reads (R45). -/
def Mmu.satp (m : Mmu) : Word := (boolWord (m.mode = .sv32) <<< 31) ||| m.ppn.setWidth 32

/-- The MMU after a write of `v` to satp (R45). -/
def Mmu.ofSatp (v : Word) : Mmu :=
  { mode := if v.getLsbD 31 then .sv32 else .off, ppn := v.setWidth 22 }

/-- `CsrRead` (R48). The draw of 0x0C3 moves the model's draw counter and nothing else. -/
def csrRead (a : CsrAddr) (s : State) : Word × State :=
  if a = csrSstatus then (s.csr csrMstatus &&& sstatusMask, s)
  else if a = csrSie then (s.csr csrMie &&& sieMask, s)
  else if a = csrSip then (s.csr csrMip &&& sieMask, s)
  else if a = csrSatp then (s.mmu.satp, s)
  else if a = csrCycle ∨ a = csrMcycle then (s.clock, s)
  else if a = csrTime then (s.clint.mtime.setWidth 32, s)
  else if a = csrNetTxBase then (0x11000000#32, s)
  else if a = csrNetRxBase then (0x11001000#32, s)
  else if a = csrNetRxReady then
    (Config.netRxReady s.host.draws, { s with host := { s.host with draws := s.host.draws + 1 } })
  else (s.csr a, s)

/-- The listed bytes of the network TX buffer, by offset (R100). -/
def txBufferCells (m : Memory) : List Host.Cell :=
  (m.filter (fun c => decide (0x11000000 ≤ c.1 ∧ c.1 < 0x11001000))).map (fun c => (c.1 % 4096, c.2))

/-- A host event is emitted (R512). -/
def State.emit (s : State) (e : HostEvent) : State :=
  { s with host := { s.host with events := s.host.events ++ [e] } }

/-- `CsrWrite` (R49). -/
def csrWrite (a : CsrAddr) (v : Word) (s : State) : State :=
  if a = csrSstatus then s.setCsr csrMstatus (viewWrite sstatusMask (s.csr csrMstatus) v)
  else if a = csrSie then s.setCsr csrMie (viewWrite sieMask (s.csr csrMie) v)
  else if a = csrSip then s.setCsr csrMip (viewWrite sieMask (s.csr csrMip) v)
  else if a = csrMideleg then s.setCsr csrMideleg (v &&& midelegMask)
  else if a = csrSatp then { s with mmu := Mmu.ofSatp v }
  else if a = csrMcycle ∨ a = csrNetTxBase ∨ a = csrNetRxBase then s
  else if a = csrNetTxSend then (s.setCsr csrNetTxSend v).emit (.netSend v (txBufferCells s.mem))
  else s.setCsr a v

/-- The privilege half of the access check: `a[9:8] ≤ privilege` (R35, spec/45_csr.md R320). DESIGN CHOICE (log 21): the
formula lets M (3) reach the addresses with a[9:8] = 2, while R35's derived last sentence says that no mode does; the model
follows the formula. Unsafe for those addresses. -/
def csrPrivOk (a : CsrAddr) (p : Priv) : Bool := decide ((a.extractLsb' 8 2).toNat ≤ p.level)

/-- The address is read-only: `a[11:10] = 0b11` (R35). -/
def csrReadOnly (a : CsrAddr) : Bool := a.extractLsb' 10 2 == 3#2

/-! ### Taking a trap and returning from one -/

/-- The exceptions this hardware raises (R14, R400). -/
inductive Exc where
  | instructionAddressMisaligned
  | illegalInstruction
  | breakpoint
  | environmentCallFromUMode
  | environmentCallFromSMode
  | environmentCallFromMMode
  | instructionPageFault
  | loadPageFault
  | storePageFault
deriving DecidableEq, Repr

/-- Cause codes (R400). -/
def Exc.code : Exc → Nat
  | .instructionAddressMisaligned => 0
  | .illegalInstruction => 2
  | .breakpoint => 3
  | .environmentCallFromUMode => 8
  | .environmentCallFromSMode => 9
  | .environmentCallFromMMode => 11
  | .instructionPageFault => 12
  | .loadPageFault => 13
  | .storePageFault => 15

/-- Delegation: the mode a trap with code `pos` goes to; none for U, which is refused (R411, R414). -/
def trapTarget (pos : Nat) (s : State) : Option Priv :=
  if (s.csr csrMedeleg).getLsbD pos || (s.csr csrMideleg).getLsbD pos then
    if (s.csr csrSedeleg).getLsbD pos || (s.csr csrSideleg).getLsbD pos then none else some .s
  else some .m

/-- The handler's address (R415). -/
def trapVector (tvec : Word) (pos : Nat) : Word :=
  if tvec.extractLsb' 0 2 = 0#2 then tvec else (tvec &&& 0xFFFFFFFC#32) + 4#32 * BitVec.ofNat 32 pos

/-- Delivery of a trap to the mode `target` (M, else S): the saved registers and status, the pc, the mode and the
reservation (R415, R416, R418). -/
def deliver (target : Priv) (pos : Nat) (cause tval epc : Word) (s : State) : State :=
  let ms := s.csr csrMstatus
  let t :=
    if target = .m then
      { (((s.setCsr csrMepc epc).setCsr csrMcause cause).setCsr csrMtval tval).setCsr csrMstatus
          (mstatusEnterM ms s.priv) with pc := trapVector (s.csr csrMtvec) pos, priv := .m }
    else
      { (((s.setCsr csrSepc epc).setCsr csrScause cause).setCsr csrStval tval).setCsr csrMstatus
          (mstatusEnterS ms s.priv) with pc := trapVector (s.csr csrStvec) pos, priv := .s }
  { t with reservation := if s.cfg.reservationClearedOnTrap then none else s.reservation }

/-- Taking an exception in the instruction at pc: xEPC is that pc (R411, R414, R416). The mark `raised` tells the end of
the tick that its trap is taken already (R413; log 7, 8). -/
def takeException (e : Exc) (tval : Word) (s : State) : Result :=
  match trapTarget e.code s with
  | none => .refused .trapToUser
  | some target =>
    .next { deliver target e.code (BitVec.ofNat 32 e.code) tval s.pc s with raised := true }

/-- The common end of MRET and SRET: status, mode and pc (R346, R347). -/
def trapReturn (ms : Word) (prev : Priv) (target : Word) (s : State) : State :=
  { s.setCsr csrMstatus ms with priv := prev, pc := target }

/-! ### The physical bus -/

/-- The windows of the address map (R80). -/
inductive Window where
  | ram
  | dtb
  | clint
  | rtc
  | uart
  | netTx
  | netRx
  | mtd
  | unmapped
deriving DecidableEq, Repr

/-- The window a physical byte address lies in (R80, R82). -/
def window (c : Launch) (a : Nat) : Window :=
  if 0x80000000 ≤ a ∧ a < 0x80000000 + c.memSize then .ram
  else if 0x00001020 ≤ a ∧ a ≤ 0x00001FFF then .dtb
  else if 0x02000000 ≤ a ∧ a ≤ 0x02000003 then .clint
  else if 0x02004000 ≤ a ∧ a ≤ 0x02004007 then .clint
  else if 0x0200BFF8 ≤ a ∧ a ≤ 0x0200BFFF then .clint
  else if 0x03000000 ≤ a ∧ a ≤ 0x030007FF then .rtc
  else if 0x10000000 ≤ a ∧ a ≤ 0x10000007 then .uart
  else if 0x11000000 ≤ a ∧ a ≤ 0x11000FFF then .netTx
  else if 0x11001000 ≤ a ∧ a ≤ 0x11001FFF then .netRx
  else if 0x40000000 ≤ a ∧ a < 0x40000000 + c.mtdSize then .mtd
  else .unmapped

/-- The offset of a byte address in the window at `base` (R80). -/
def offset (base pa : Word) : Nat := (pa - base).toNat

/-- Read of a byte of plain storage. -/
def Memory.read (m : Memory) (a : Nat) : Byte := Sparse.read Memory.unlisted m a

/-- Write of a byte of plain storage. -/
def Memory.write (m : Memory) (a : Nat) (b : Byte) : Memory := Sparse.write Memory.unlisted m a b

/-- The memory's canonical form. -/
def Memory.wf (m : Memory) : Bool := Sparse.wf Memory.unlisted m

/-- The value a byte read at `pa` returns (R82). -/
def busPeek (pa : Word) (s : State) : Byte :=
  match window s.cfg pa.toNat with
  | .ram => s.mem.read pa.toNat
  | .dtb => s.cfg.dtbImage.getD (offset 0x00001020#32 pa) 0#8
  | .clint => clintRead (offset 0x02000000#32 pa) s.clint
  | .rtc => rtcRead (offset 0x03000000#32 pa) s.rtc
  | .uart => uartReadValue (offset 0x10000000#32 pa) s.uart
  | .netTx => s.mem.read pa.toNat
  | .netRx => s.mem.read pa.toNat
  | .mtd => s.mem.read pa.toNat
  | .unmapped => 0#8

/-- What a byte read at `pa` does: only the UART's registers have read side effects (R77, R89). -/
def busReadEffect (pa : Word) (s : State) : State :=
  match window s.cfg pa.toNat with
  | .uart => { s with uart := uartReadEffect (offset 0x10000000#32 pa) s.uart }
  | _ => s

/-- `BusReadByte` (R82). -/
def busReadByte (pa : Word) (s : State) : Byte × State := (busPeek pa s, busReadEffect pa s)

/-- `ClintWriteByte` (R433): with the register's byte, the pending bits it drives. -/
def clintWrite (o : Nat) (b : Byte) (s : State) : State :=
  if o = 0 then { s with clint := { s.clint with msip := b.getLsbD 0 } }.setMip 3 (b.getLsbD 0)
  else if 0x4000 ≤ o ∧ o ≤ 0x4007 then
    ({ s with clint := { s.clint with mtimecmp := putByte s.clint.mtimecmp (o % 8) b } }.setMip 7 false).setMip 5 false
  else if 0xBFF8 ≤ o ∧ o ≤ 0xBFFF then
    { s with clint := { s.clint with mtime := putByte s.clint.mtime (o % 8) b } }
  else s

/-- `RtcWriteByte` (R97): 0x40 at the control register takes a snapshot of the host's wall clock. -/
def rtcWrite (o : Nat) (b : Byte) (s : State) : State :=
  if o = 0x7F8 ∧ b = 0x40#8 then
    { s with rtc := rtcSnapshot (Config.wallClock s.host.draws), host := { s.host with draws := s.host.draws + 1 } }
  else s

/-- `BusWriteByte` (R83). -/
def busWriteByte (pa : Word) (b : Byte) (s : State) : State :=
  match window s.cfg pa.toNat with
  | .ram => { s with mem := s.mem.write pa.toNat b }
  | .dtb => s
  | .clint => clintWrite (offset 0x02000000#32 pa) b s
  | .rtc => rtcWrite (offset 0x03000000#32 pa) b s
  | .uart => { s with uart := uartWrite (offset 0x10000000#32 pa) b s.uart }
  | .netTx => { s with mem := s.mem.write pa.toNat b }
  | .netRx => { s with mem := s.mem.write pa.toNat b }
  | .mtd => if s.cfg.mtdWritable then { s with mem := s.mem.write pa.toNat b } else s
  | .unmapped => s

/-- `BusRead(pa, n)`: n byte reads in ascending order, little-endian (R72). -/
def busRead : Nat → Word → State → Word × State
  | 0, _, s => (0#32, s)
  | n + 1, pa, s =>
    let b := busReadByte pa s
    let r := busRead n (pa + 1#32) b.2
    (b.1.setWidth 32 ||| (r.1 <<< 8), r.2)

/-- `BusWrite(pa, n, v)`: n byte writes in ascending order, little-endian (R72). -/
def busWrite : Nat → Word → Word → State → State
  | 0, _, _, s => s
  | n + 1, pa, v, s => busWrite n (pa + 1#32) (v >>> 8) (busWriteByte pa (v.setWidth 8) s)

/-! ### Sv32 translation -/

/-- Access kinds (R110). -/
inductive Access where
  | fetch
  | read
  | write
deriving DecidableEq, Repr

/-- The page fault of an access kind (R119). -/
def Access.fault : Access → Exc
  | .fetch => .instructionPageFault
  | .read => .loadPageFault
  | .write => .storePageFault

/-- The privilege an access is checked against; 2 when MPRV is set and MPP holds 2 (R111). -/
def effectivePriv (acc : Access) (s : State) : BitVec 2 :=
  if (s.csr csrMstatus).getLsbD 17 ∧ acc ≠ .fetch then mppOf (s.csr csrMstatus) else s.priv.code

/-! Fields of a PTE (R112). -/

def pteV (p : Word) : Bool := p.getLsbD 0
def pteR (p : Word) : Bool := p.getLsbD 1
def pteW (p : Word) : Bool := p.getLsbD 2
def pteX (p : Word) : Bool := p.getLsbD 3
def pteU (p : Word) : Bool := p.getLsbD 4
def pteA (p : Word) : Bool := p.getLsbD 6
def pteD (p : Word) : Bool := p.getLsbD 7
def ptePpn0 (p : Word) : BitVec 10 := p.extractLsb' 10 10
/-- `cat(PPN1, PPN0)`. -/
def ptePpn (p : Word) : BitVec 22 := p.extractLsb' 10 22

/-- VPN[1] and VPN[0] (R113). -/
def vpn1 (va : Word) : BitVec 10 := va.extractLsb' 22 10
def vpn0 (va : Word) : BitVec 10 := va.extractLsb' 12 10

/-- The address of a PTE: `ppn * 4096 + vpn * 4` modulo 2^32 (R110, R114). -/
def pteAddr (ppn : BitVec 22) (vpn : BitVec 10) : Word := ppn.setWidth 32 * 4096#32 + vpn.setWidth 32 * 4#32

/-- The permission check (R115). -/
def permOk (eff : BitVec 2) (sum : Bool) (p : Word) : Bool :=
  eff == 3#2 || (eff == 0#2 && pteU p) || (eff == 1#2 && (!pteU p || sum))

/-- The access check (R116). -/
def accessOk (acc : Access) (mxr : Bool) (p : Word) : Bool :=
  match acc with
  | .fetch => pteX p
  | .read => pteR p || (pteX p && mxr)
  | .write => pteW p

/-- A leaf's checks and the physical address (R114 to R118); none is the page fault. -/
def leafAddr (va : Word) (acc : Access) (eff : BitVec 2) (ms : Word) (super : Bool) (p : Word) : Option Word :=
  if !permOk eff (ms.getLsbD 18) p || !accessOk acc (ms.getLsbD 19) p then none
  else if super && ptePpn0 p != 0#10 then none
  else if !pteA p || (acc == .write && !pteD p) then none
  else some (p.extractLsb' 20 10 ++ (if super then vpn0 va else ptePpn0 p) ++ va.extractLsb' 0 12)

/-- A PTE no level accepts (R110). -/
def pteBad (p : Word) : Bool := !pteV p || (!pteR p && pteW p)

/-- The two-level walk (R110). Its reads go over the bus, with their side effects. -/
def walk (va : Word) (acc : Access) (eff : BitVec 2) (s : State) : Option Word × State :=
  let ms := s.csr csrMstatus
  let p1 := busRead 4 (pteAddr s.mmu.ppn (vpn1 va)) s
  if pteBad p1.1 then (none, p1.2)
  else if pteR p1.1 || pteX p1.1 then (leafAddr va acc eff ms true p1.1, p1.2)
  else
    let p0 := busRead 4 (pteAddr (ptePpn p1.1) (vpn0 va)) p1.2
    if pteBad p0.1 || (!pteR p0.1 && !pteX p0.1) then (none, p0.2)
    else (leafAddr va acc eff ms false p0.1, p0.2)

/-- `Translate` (R110, R111); none is the page fault of `acc` with tval = va (R119). DESIGN CHOICE (log 22): a data access
in S or U with MPRV = 1 and MPP = M bypasses, by R110's algorithm and R111's effective privilege, while the tables of
spec/46_system.md R348 and spec/60_exceptions.md R422 have S and U translate it. Unsafe for those accesses. -/
def translate (va : Word) (acc : Access) (s : State) : Option Word × State :=
  if s.mmu.mode = .off then (some va, s)
  else if effectivePriv acc s = 3#2 ∨ (s.priv = .m ∧ acc = .fetch) then (some va, s)
  else walk va acc (effectivePriv acc s) s

end Sys2Proof.Machine
end

