-- ==== Sys2Proof/Machine/Operands.lean ====
section
/-!
DEFINITION. Operand forms: effective addresses, shift amounts, the CSR instructions' sources and the common shapes of
memory, branch and CSR instructions.
-/
namespace Sys2Proof.Machine

/-- Register plus immediate, modulo 2^32 (spec/42_loadstore.md R260; JALR's target before bit 0 is cleared, R241). -/
def effAddr (rs1 : Reg) (imm : Word) (s : State) : Word := s.reg rs1 + imm

/-- The register shift amount: the low five bits of rs2 (spec/40_alu.md, before R212). -/
def shiftAmount (v : Word) : Nat := (v &&& 0x1F#32).toNat

/-- A load of `n` bytes extended by `ext` (R260): translate, read, write rd. -/
def loadOp (n : Nat) (ext : Word → Word) (rd : Reg) (addr : Word) (s : State) : Result :=
  match translate addr .read s with
  | (none, s1) => takeException .loadPageFault addr s1
  | (some pa, s1) =>
    let r := busRead n pa s1
    retire rd (ext r.1) r.2

/-- A store of the low `n` bytes of `v` (R260): translate, write. -/
def storeOp (n : Nat) (v : Word) (addr : Word) (s : State) : Result :=
  match translate addr .write s with
  | (none, s1) => takeException .storePageFault addr s1
  | (some pa, s1) => .next (busWrite n pa v s1).advance

/-- The common AMO algorithm (R302): one translation with WRITE, read, write, rd ← old. -/
def amoOp (op : Word → Word → Word) (rd rs1 rs2 : Reg) (s : State) : Result :=
  match translate (s.reg rs1) .write s with
  | (none, s1) => takeException .storePageFault (s.reg rs1) s1
  | (some pa, s1) =>
    let old := busRead 4 pa s1
    retire rd old.1 (busWrite 4 pa (op old.1 (s.reg rs2)) old.2)

/-- A conditional branch (R242 to R249): the target is not checked. -/
def branchOp (taken : Bool) (imm : Word) (s : State) : Result :=
  .next { s with pc := if taken then s.pc + imm else s.pc + 4#32 }

/-- W, S and C of R320. -/
inductive CsrKind where
  | write
  | set
  | clear
deriving DecidableEq, Repr

/-- The value a CSR instruction writes (R320). -/
def CsrKind.combine : CsrKind → Word → Word → Word
  | .write, _, src => src
  | .set, old, src => old ||| src
  | .clear, old, src => old &&& ~~~src

/-- The instruction writes its CSR: always for W, else when the field w[19:15] is not 0 (R320). -/
def CsrKind.writes (kind : CsrKind) (field : BitVec 5) : Bool := decide (kind = .write) || field != 0#5

/-- The access check (spec/10_state.md R35); both of its failures raise the same IllegalInstruction (R320). -/
def csrAllowed (kind : CsrKind) (field : BitVec 5) (csr : CsrAddr) (p : Priv) : Bool :=
  csrPrivOk csr p && !(kind.writes field && csrReadOnly csr)

/-- The common algorithm of the CSR instructions (R320), `w` the instruction word, `field` the register number or
immediate in w[19:15], `src` its value. The CSR is written first, then rd (spec/70_reset_and_hazards.md R502). -/
def csrOp (kind : CsrKind) (w : Word) (rd : Reg) (field : BitVec 5) (src : Word) (csr : CsrAddr) (s : State) : Result :=
  if csrAllowed kind field csr s.priv then
    let old := csrRead csr s
    retire rd old.1 (if kind.writes field then csrWrite csr (kind.combine old.1 src) old.2 else old.2)
  else takeException .illegalInstruction w s

/-- The CSR immediate, zero-extended (R144). -/
def csrImm (uimm : BitVec 5) : Word := uimm.setWidth 32

end Sys2Proof.Machine
end

