-- ==== Sys2Proof/Machine/Alu.lean ====
section
/-!
DEFINITION. Integer computational instructions (spec/40_alu.md).
-/
namespace Sys2Proof.Machine

/-- The shift that replicates the sign bit, by the source's formula (R211). -/
def shiftRightArith (v : Word) (n : Nat) : Word := if v.getLsbD 31 then ~~~((~~~v) >>> n) else v >>> n

/-- LUI: rd ← imm (R201). -/
def execLui (rd : Reg) (imm : Word) (s : State) : Result :=
  retire rd imm s

/-- AUIPC: rd ← pc + imm (R202). -/
def execAuipc (rd : Reg) (imm : Word) (s : State) : Result :=
  retire rd (s.pc + imm) s

/-- ADDI: rd ← x[rs1] + imm (R203). -/
def execAddi (rd rs1 : Reg) (imm : Word) (s : State) : Result :=
  retire rd (s.reg rs1 + imm) s

/-- SLTI: signed comparison (R204). -/
def execSlti (rd rs1 : Reg) (imm : Word) (s : State) : Result :=
  retire rd (boolWord ((s.reg rs1).slt imm)) s

/-- SLTIU: unsigned comparison with the sign-extended immediate (R205). -/
def execSltiu (rd rs1 : Reg) (imm : Word) (s : State) : Result :=
  retire rd (boolWord ((s.reg rs1).ult imm)) s

/-- XORI: exclusive or (R206). -/
def execXori (rd rs1 : Reg) (imm : Word) (s : State) : Result :=
  retire rd (s.reg rs1 ^^^ imm) s

/-- ORI: or (R207). -/
def execOri (rd rs1 : Reg) (imm : Word) (s : State) : Result :=
  retire rd (s.reg rs1 ||| imm) s

/-- ANDI: and (R208). -/
def execAndi (rd rs1 : Reg) (imm : Word) (s : State) : Result :=
  retire rd (s.reg rs1 &&& imm) s

/-- SLLI: logical left shift; bit 25 of the word has no effect (R209). -/
def execSlli (rd rs1 : Reg) (shamt : BitVec 5) (_b25 : Bool) (s : State) : Result :=
  retire rd (s.reg rs1 <<< shamt.toNat) s

/-- SRLI: logical right shift (R210). -/
def execSrli (rd rs1 : Reg) (shamt : BitVec 5) (_b25 : Bool) (s : State) : Result :=
  retire rd (s.reg rs1 >>> shamt.toNat) s

/-- SRAI: arithmetic right shift (R211). -/
def execSrai (rd rs1 : Reg) (shamt : BitVec 5) (_b25 : Bool) (s : State) : Result :=
  retire rd (shiftRightArith (s.reg rs1) shamt.toNat) s

/-- ADD: sum modulo 2^32 (R212). -/
def execAdd (rd rs1 rs2 : Reg) (s : State) : Result :=
  retire rd (s.reg rs1 + s.reg rs2) s

/-- SUB: difference modulo 2^32 (R213). -/
def execSub (rd rs1 rs2 : Reg) (s : State) : Result :=
  retire rd (s.reg rs1 - s.reg rs2) s

/-- SLL: left shift by the low five bits of rs2 (R214). -/
def execSll (rd rs1 rs2 : Reg) (s : State) : Result :=
  retire rd (s.reg rs1 <<< shiftAmount (s.reg rs2)) s

/-- SLT: signed comparison (R215). -/
def execSlt (rd rs1 rs2 : Reg) (s : State) : Result :=
  retire rd (boolWord ((s.reg rs1).slt (s.reg rs2))) s

/-- SLTU: unsigned comparison (R216). -/
def execSltu (rd rs1 rs2 : Reg) (s : State) : Result :=
  retire rd (boolWord ((s.reg rs1).ult (s.reg rs2))) s

/-- XOR: exclusive or (R217). -/
def execXor (rd rs1 rs2 : Reg) (s : State) : Result :=
  retire rd (s.reg rs1 ^^^ s.reg rs2) s

/-- SRL: logical right shift by the low five bits of rs2 (R218). -/
def execSrl (rd rs1 rs2 : Reg) (s : State) : Result :=
  retire rd (s.reg rs1 >>> shiftAmount (s.reg rs2)) s

/-- SRA: arithmetic right shift by the low five bits of rs2 (R219). -/
def execSra (rd rs1 rs2 : Reg) (s : State) : Result :=
  retire rd (shiftRightArith (s.reg rs1) (shiftAmount (s.reg rs2))) s

/-- OR: or (R220). -/
def execOr (rd rs1 rs2 : Reg) (s : State) : Result :=
  retire rd (s.reg rs1 ||| s.reg rs2) s

/-- AND: and (R221). -/
def execAnd (rd rs1 rs2 : Reg) (s : State) : Result :=
  retire rd (s.reg rs1 &&& s.reg rs2) s

end Sys2Proof.Machine
end

