-- ==== Sys2Proof/Machine/Atomic.lean ====
section
/-!
DEFINITION. Atomic instructions (spec/44_atomics.md). aq and rl order nothing (spec/20_memory.md R121).
-/
namespace Sys2Proof.Machine

/-- LR.W: load the word and reserve its virtual address, if the load does not fault (R300, D10). -/
def execLrW (rd rs1 : Reg) (_aq _rl : Bool) (s : State) : Result :=
  match translate (s.reg rs1) .read s with
  | (none, s1) => takeException .loadPageFault (s.reg rs1) s1
  | (some pa, s1) =>
    let r := busRead 4 pa s1
    retire rd r.1 { r.2 with reservation := some (s.reg rs1) }

/-- SC.W: with the reservation on this address, store, clear it and write 0; else write 1 and access nothing (R301). -/
def execScW (rd rs1 rs2 : Reg) (_aq _rl : Bool) (s : State) : Result :=
  if s.reservation = some (s.reg rs1) then
    match translate (s.reg rs1) .write s with
    | (none, s1) => takeException .storePageFault (s.reg rs1) s1
    | (some pa, s1) => retire rd 0#32 { busWrite 4 pa (s.reg rs2) s1 with reservation := none }
  else retire rd 1#32 s

/-- AMOSWAP.W: swap (R303). -/
def execAmoswapW (rd rs1 rs2 : Reg) (_aq _rl : Bool) (s : State) : Result :=
  amoOp (fun _ src => src) rd rs1 rs2 s

/-- AMOADD.W: add (R304). -/
def execAmoaddW (rd rs1 rs2 : Reg) (_aq _rl : Bool) (s : State) : Result :=
  amoOp (fun old src => old + src) rd rs1 rs2 s

/-- AMOXOR.W: exclusive or (R305). -/
def execAmoxorW (rd rs1 rs2 : Reg) (_aq _rl : Bool) (s : State) : Result :=
  amoOp (fun old src => old ^^^ src) rd rs1 rs2 s

/-- AMOAND.W: and (R306). -/
def execAmoandW (rd rs1 rs2 : Reg) (_aq _rl : Bool) (s : State) : Result :=
  amoOp (fun old src => old &&& src) rd rs1 rs2 s

/-- AMOOR.W: or (R307). -/
def execAmoorW (rd rs1 rs2 : Reg) (_aq _rl : Bool) (s : State) : Result :=
  amoOp (fun old src => old ||| src) rd rs1 rs2 s

/-- AMOMIN.W: signed minimum (R308). -/
def execAmominW (rd rs1 rs2 : Reg) (_aq _rl : Bool) (s : State) : Result :=
  amoOp (fun old src => if old.slt src then old else src) rd rs1 rs2 s

/-- AMOMAX.W: signed maximum (R309). -/
def execAmomaxW (rd rs1 rs2 : Reg) (_aq _rl : Bool) (s : State) : Result :=
  amoOp (fun old src => if src.slt old then old else src) rd rs1 rs2 s

/-- AMOMINU.W: unsigned minimum (R310). -/
def execAmominuW (rd rs1 rs2 : Reg) (_aq _rl : Bool) (s : State) : Result :=
  amoOp (fun old src => if old.ult src then old else src) rd rs1 rs2 s

/-- AMOMAXU.W: unsigned maximum (R311). -/
def execAmomaxuW (rd rs1 rs2 : Reg) (_aq _rl : Bool) (s : State) : Result :=
  amoOp (fun old src => if src.ult old then old else src) rd rs1 rs2 s

end Sys2Proof.Machine
end

