-- ==== Sys2Proof/Machine/Control.lean ====
section
/-!
DEFINITION. Control transfer instructions (spec/41_control.md). No target is checked; a misaligned one traps at the next
fetch (R249).
-/
namespace Sys2Proof.Machine

/-- JAL: rd ← pc + 4, pc ← pc + imm (R240). -/
def execJal (rd : Reg) (imm : Word) (s : State) : Result :=
  .next { s.setReg rd (s.pc + 4#32) with pc := s.pc + imm }

/-- JALR: the target is computed before rd is written; bit 0 is cleared, bit 1 is not (R241). -/
def execJalr (rd rs1 : Reg) (imm : Word) (s : State) : Result :=
  .next { s.setReg rd (s.pc + 4#32) with pc := effAddr rs1 imm s &&& 0xFFFFFFFE#32 }

/-- BEQ (R242). -/
def execBeq (rs1 rs2 : Reg) (imm : Word) (s : State) : Result :=
  branchOp (s.reg rs1 == s.reg rs2) imm s

/-- BNE (R243). -/
def execBne (rs1 rs2 : Reg) (imm : Word) (s : State) : Result :=
  branchOp (s.reg rs1 != s.reg rs2) imm s

/-- BLT (R244). -/
def execBlt (rs1 rs2 : Reg) (imm : Word) (s : State) : Result :=
  branchOp ((s.reg rs1).slt (s.reg rs2)) imm s

/-- BGE (R245). -/
def execBge (rs1 rs2 : Reg) (imm : Word) (s : State) : Result :=
  branchOp (!(s.reg rs1).slt (s.reg rs2)) imm s

/-- BLTU (R246). -/
def execBltu (rs1 rs2 : Reg) (imm : Word) (s : State) : Result :=
  branchOp ((s.reg rs1).ult (s.reg rs2)) imm s

/-- BGEU (R247). -/
def execBgeu (rs1 rs2 : Reg) (imm : Word) (s : State) : Result :=
  branchOp (!(s.reg rs1).ult (s.reg rs2)) imm s

end Sys2Proof.Machine
end

