-- ==== Sys2Proof/Machine/Csr.lean ====
section
/-!
DEFINITION. CSR instructions (spec/45_csr.md). The instruction word of the IllegalInstruction they may raise is the
encoding of the instruction, which has no ignored bit (log 12).
-/
namespace Sys2Proof.Machine

/-- CSRRW (R321). -/
def execCsrrw (rd rs1 : Reg) (csr : CsrAddr) (s : State) : Result :=
  csrOp .write (encode (.csrrw rd rs1 csr)) rd rs1 (s.reg rs1) csr s

/-- CSRRS (R322). -/
def execCsrrs (rd rs1 : Reg) (csr : CsrAddr) (s : State) : Result :=
  csrOp .set (encode (.csrrs rd rs1 csr)) rd rs1 (s.reg rs1) csr s

/-- CSRRC (R323). -/
def execCsrrc (rd rs1 : Reg) (csr : CsrAddr) (s : State) : Result :=
  csrOp .clear (encode (.csrrc rd rs1 csr)) rd rs1 (s.reg rs1) csr s

/-- CSRRWI (R324). -/
def execCsrrwi (rd : Reg) (uimm : BitVec 5) (csr : CsrAddr) (s : State) : Result :=
  csrOp .write (encode (.csrrwi rd uimm csr)) rd uimm (csrImm uimm) csr s

/-- CSRRSI (R325). -/
def execCsrrsi (rd : Reg) (uimm : BitVec 5) (csr : CsrAddr) (s : State) : Result :=
  csrOp .set (encode (.csrrsi rd uimm csr)) rd uimm (csrImm uimm) csr s

/-- CSRRCI (R326). -/
def execCsrrci (rd : Reg) (uimm : BitVec 5) (csr : CsrAddr) (s : State) : Result :=
  csrOp .clear (encode (.csrrci rd uimm csr)) rd uimm (csrImm uimm) csr s

end Sys2Proof.Machine
end

