-- ==== Sys2Proof/Machine/LoadStore.lean ====
section
/-!
DEFINITION. Loads and stores (spec/42_loadstore.md).
-/
namespace Sys2Proof.Machine

/-- LB: byte, sign-extended (R261). -/
def execLb (rd rs1 : Reg) (imm : Word) (s : State) : Result :=
  loadOp 1 (fun v => (v.setWidth 8).signExtend 32) rd (effAddr rs1 imm s) s

/-- LH: halfword, sign-extended (R262). -/
def execLh (rd rs1 : Reg) (imm : Word) (s : State) : Result :=
  loadOp 2 (fun v => (v.setWidth 16).signExtend 32) rd (effAddr rs1 imm s) s

/-- LW: word (R263). -/
def execLw (rd rs1 : Reg) (imm : Word) (s : State) : Result :=
  loadOp 4 (fun v => v) rd (effAddr rs1 imm s) s

/-- LBU: byte, zero-extended (R264). -/
def execLbu (rd rs1 : Reg) (imm : Word) (s : State) : Result :=
  loadOp 1 (fun v => (v.setWidth 8).setWidth 32) rd (effAddr rs1 imm s) s

/-- LHU: halfword, zero-extended (R265). -/
def execLhu (rd rs1 : Reg) (imm : Word) (s : State) : Result :=
  loadOp 2 (fun v => (v.setWidth 16).setWidth 32) rd (effAddr rs1 imm s) s

/-- SB: the low byte of rs2 (R266). -/
def execSb (rs1 rs2 : Reg) (imm : Word) (s : State) : Result :=
  storeOp 1 (s.reg rs2) (effAddr rs1 imm s) s

/-- SH: the low halfword of rs2 (R267). -/
def execSh (rs1 rs2 : Reg) (imm : Word) (s : State) : Result :=
  storeOp 2 (s.reg rs2) (effAddr rs1 imm s) s

/-- SW: rs2 (R268). -/
def execSw (rs1 rs2 : Reg) (imm : Word) (s : State) : Result :=
  storeOp 4 (s.reg rs2) (effAddr rs1 imm s) s

end Sys2Proof.Machine
end

