-- ==== Sys2Proof/Machine/MulDiv.lean ====
section
/-!
DEFINITION. Multiply and divide (spec/43_muldiv.md): exact integers, narrowed at the end.
-/
namespace Sys2Proof.Machine

/-- n modulo 2^32. -/
def lo32 (n : Int) : Word := BitVec.ofInt 32 n

/-- `floor(n / 2^32)` modulo 2^32. -/
def hi32 (n : Int) : Word := BitVec.ofInt 32 (n / 4294967296)

/-- The signed overflow case of division: the most negative number by -1. -/
def divOverflow (a b : Word) : Bool := a == 0x80000000#32 && b == 0xFFFFFFFF#32

/-- Signed quotient, rounded toward zero (R285). -/
def divWord (a b : Word) : Word :=
  if b = 0#32 then 0xFFFFFFFF#32 else if divOverflow a b then 0x80000000#32 else lo32 (a.toInt.tdiv b.toInt)

/-- Unsigned quotient (R286). -/
def divuWord (a b : Word) : Word := if b = 0#32 then 0xFFFFFFFF#32 else BitVec.ofNat 32 (a.toNat / b.toNat)

/-- Signed remainder, with the dividend's sign (R287). -/
def remWord (a b : Word) : Word :=
  if b = 0#32 then a else if divOverflow a b then 0#32 else lo32 (a.toInt - a.toInt.tdiv b.toInt * b.toInt)

/-- Unsigned remainder (R288). -/
def remuWord (a b : Word) : Word := if b = 0#32 then a else BitVec.ofNat 32 (a.toNat % b.toNat)

/-- MUL: low word of the product (R281). -/
def execMul (rd rs1 rs2 : Reg) (s : State) : Result :=
  retire rd (lo32 ((s.reg rs1).toInt * (s.reg rs2).toInt)) s

/-- MULH: high word, both signed (R282). -/
def execMulh (rd rs1 rs2 : Reg) (s : State) : Result :=
  retire rd (hi32 ((s.reg rs1).toInt * (s.reg rs2).toInt)) s

/-- MULHSU: high word, rs1 signed, rs2 unsigned (R283). -/
def execMulhsu (rd rs1 rs2 : Reg) (s : State) : Result :=
  retire rd (hi32 ((s.reg rs1).toInt * (s.reg rs2).toNat)) s

/-- MULHU: high word, both unsigned (R284). -/
def execMulhu (rd rs1 rs2 : Reg) (s : State) : Result :=
  retire rd (hi32 ((s.reg rs1).toNat * (s.reg rs2).toNat)) s

/-- DIV: signed quotient (R285). -/
def execDiv (rd rs1 rs2 : Reg) (s : State) : Result :=
  retire rd (divWord (s.reg rs1) (s.reg rs2)) s

/-- DIVU: unsigned quotient (R286). -/
def execDivu (rd rs1 rs2 : Reg) (s : State) : Result :=
  retire rd (divuWord (s.reg rs1) (s.reg rs2)) s

/-- REM: signed remainder (R287). -/
def execRem (rd rs1 rs2 : Reg) (s : State) : Result :=
  retire rd (remWord (s.reg rs1) (s.reg rs2)) s

/-- REMU: unsigned remainder (R288). -/
def execRemu (rd rs1 rs2 : Reg) (s : State) : Result :=
  retire rd (remuWord (s.reg rs1) (s.reg rs2)) s

end Sys2Proof.Machine
end

