-- ==== Sys2Proof/Machine/System.lean ====
section
/-!
DEFINITION. System instructions (spec/46_system.md).
-/
namespace Sys2Proof.Machine

/-- FENCE: a no-op in every mode, whatever its fields hold (R340). -/
def execFence (_fm _pred _succ : BitVec 4) (_rs1 _rd : Reg) (s : State) : Result := .next s.advance

/-- FENCE.I: a no-op (R341). -/
def execFenceI (_imm : BitVec 12) (_rs1 _rd : Reg) (s : State) : Result := .next s.advance

/-- SFENCE.VMA: a no-op in every mode (R342). -/
def execSfenceVma (_rs1 _rs2 : Reg) (s : State) : Result := .next s.advance

/-- WFI: a no-op in every mode; it does not wait (R343). -/
def execWfi (s : State) : Result := .next s.advance

/-- The environment call of a mode (R344). -/
def ecallExc : Priv → Exc
  | .u => .environmentCallFromUMode
  | .s => .environmentCallFromSMode
  | .m => .environmentCallFromMMode

/-- ECALL: the gated exit, which ends the run before any commit, or the environment call of the mode (R344, D29). -/
def execEcall (s : State) : Result :=
  if s.reg 17#5 = 93#32 ∧ s.cfg.ecallExitEnabled then .next { s with exited := some (s.reg 10#5 >>> 1) }
  else takeException (ecallExc s.priv) 0#32 s

/-- EBREAK: Breakpoint with tval = pc (R345). -/
def execEbreak (s : State) : Result := takeException .breakpoint s.pc s

/-- MRET (R346). MPP = 2 is refused, as the spec asks (D14). -/
def execMret (s : State) : Result :=
  if s.cfg.xretPrivCheck ∧ s.priv ≠ .m then takeException .illegalInstruction (encode .mret) s
  else
    match Priv.ofCode (mppOf (s.csr csrMstatus)) with
    | none => .refused .mretToReservedMode
    | some prev => .next (trapReturn (mstatusMret (s.csr csrMstatus) prev) prev (s.csr csrMepc) s)

/-- SRET (R347). -/
def execSret (s : State) : Result :=
  if s.cfg.xretPrivCheck ∧ s.priv = .u then takeException .illegalInstruction (encode .sret) s
  else
    let prev : Priv := if (s.csr csrMstatus).getLsbD 8 then .s else .u
    .next (trapReturn (mstatusSret (s.csr csrMstatus)) prev (s.csr csrSepc) s)

end Sys2Proof.Machine
end

