-- ==== Sys2Proof/Machine/Tick.lean ====
section
/-!
DEFINITION. What a tick does around its instruction (spec/70_reset_and_hazards.md R501): the host's move before it, the
clock, the fetch, the devices, the interrupts.
-/
namespace Sys2Proof.Machine

/-! ### Before the instruction -/

/-- A host move between ticks (R512): bytes into the RX buffer, MIP.SEIP (R100, D33). -/
def hostMove (m : HostMove) (s : State) : State :=
  match m with
  | .idle => s
  | .receive bytes seip =>
    let t : State := { s with mem := bytes.foldl (fun mem c => mem.write (0x11001000 + c.1.val) c.2) s.mem }
    if seip then t.setMip 9 true else t

/-- The next host move, if one is due (log 4). -/
def takeHostMove (s : State) : State :=
  match s.host.inbox with
  | [] => s
  | m :: rest => hostMove m { s with host := { s.host with inbox := rest } }

/-- The host's move, then step 1 of the tick: clock ← clock + 1, no trap yet (R501, R25). -/
def beginTick (s : State) : State :=
  { takeHostMove s with clock := (takeHostMove s).clock + 1#32, raised := false }

/-- What the fetch and the decoder give: an instruction or an exception with its value. -/
inductive Fetched where
  | instr (i : Instr)
  | trap (e : Exc) (tval : Word)
deriving DecidableEq, Repr

/-- Fetch and decode: alignment first, then translation, then four bytes over the bus, then the tables (R503, R146). -/
def fetch (s : State) : Fetched × State :=
  if s.pc.extractLsb' 0 2 ≠ 0#2 then (.trap .instructionAddressMisaligned s.pc, s)
  else
    match translate s.pc .fetch s with
    | (none, s1) => (.trap .instructionPageFault s.pc, s1)
    | (some pa, s1) =>
      let w := busRead 4 pa s1
      match decode w.1 with
      | .ok i => (.instr i, w.2)
      | .error _ => (.trap .illegalInstruction w.1, w.2)

/-! ### After the instruction -/

/-- `mtime++`, modulo 2^64 (R430). -/
def mtimeTick (s : State) : State := { s with clint := { s.clint with mtime := s.clint.mtime + 1#64 } }

/-- MIP.MTIP is set while mtime has reached mtimecmp, and never cleared here (R430). -/
def timerIrq (s : State) : State := if s.clint.mtimecmp.toNat ≤ s.clint.mtime.toNat then s.setMip 7 true else s

/-- MIP.MSIP is set while msip is (R431). -/
def softwareIrq (s : State) : State := if s.clint.msip then s.setMip 3 true else s

/-- The CLINT's part of the tick (R430, R431). -/
def clintTick (s : State) : State := softwareIrq (timerIrq (mtimeTick s))

/-- UART transmit (R93). -/
def uartTransmit (s : State) : State :=
  if s.clock &&& 0x16#32 = 0#32 ∧ s.uart.thr ≠ 0#8 then
    (State.emit { s with uart := uartSent s.uart } (.uartOut s.uart.thr))
  else s

/-- UART receive (R94): the draw is made only when the test passes. -/
def uartReceive (s : State) : State :=
  if s.clock.toNat % 0x38400 = 0 ∧ s.uart.rbr = 0#8 then
    let t : State := { s with host := { s.host with draws := s.host.draws + 1 } }
    match Config.uartIn s.host.draws with
    | none => t
    | some b => { t with uart := uartReceived b s.uart }
  else s

/-- MIP.SEIP from the UART (R95). -/
def uartIrq (s : State) : State := if s.uart.interrupting then s.setMip 9 true else s

/-- Step 4 of the tick (R501). -/
def deviceTick (s : State) : State := uartIrq (uartReceive (uartTransmit (clintTick s)))

/-- The interrupt candidate: the first set bit of mip & mie in priority order (R410). -/
def interruptCandidate (s : State) : Option Nat :=
  [11, 3, 7, 9, 1, 5].find? (fun p => (s.csr csrMip &&& s.csr csrMie).getLsbD p)

/-- The candidate is not taken in this tick (R412). -/
def interruptMasked (target : Priv) (s : State) : Bool :=
  decide (target.level < s.priv.level)
    || (decide (target = s.priv) && decide (target = .m) && !(s.csr csrMstatus).getLsbD 3)
    || (decide (target = s.priv) && decide (target = .s) && !(s.csr csrMstatus).getLsbD 1)

/-- Delivery of the interrupt `p` (R416) and, for software and external interrupts, clearing its pending bit (R417). -/
def deliverInterrupt (target : Priv) (p : Nat) (s : State) : State :=
  let t := deliver target p (0x80000000#32 ||| BitVec.ofNat 32 p) 0#32 s.pc s
  if p = 1 ∨ p = 3 ∨ p = 9 ∨ p = 11 then t.setMip p false else t

/-- Step 5 of the tick for a tick without an exception (R410 to R417). A candidate that delegation would send to U is
refused before it is masked, in the order of R411 and R412 (log 11). -/
def resolveInterrupt (s : State) : Result :=
  match interruptCandidate s with
  | none => .next s
  | some p =>
    match trapTarget p s with
    | none => .refused .trapToUser
    | some target => if interruptMasked target s then .next s else .next (deliverInterrupt target p s)

/-- Steps 4 and 5 of the tick after the instruction: the run has ended, or the devices move and then, unless an
exception was taken, an interrupt may be (R413, R501). -/
def finishTick (s : State) : Result :=
  if s.exited.isSome then .next s
  else if s.raised then .next { deviceTick s with raised := false }
  else resolveInterrupt (deviceTick s)

/-- The end of the tick for any answer of the instruction. -/
def endTick : Result → Result
  | .next s => finishTick s
  | .fault f => .fault f
  | .refused r => .refused r

/-! ### Placing an instruction where the next tick fetches it -/

/-- The state has an aligned pc whose word lies in RAM and a fetch that is not translated. -/
def fetchesRam (s : State) : Bool :=
  decide (s.pc.extractLsb' 0 2 = 0#2) && (decide (s.mmu.mode = .off) || decide (s.priv = .m))
    && decide (0x80000000 ≤ s.pc.toNat ∧ s.pc.toNat + 4 ≤ 0x80000000 + s.cfg.memSize)

/-- The word `w` at physical address `a`, as a loader leaves it. -/
def loadWord (w : Word) (a : Nat) (s : State) : State :=
  let low := (s.mem.write a (byteAt w 0)).write (a + 1) (byteAt w 1)
  { s with mem := (low.write (a + 2) (byteAt w 2)).write (a + 3) (byteAt w 3) }

/-- The word `w` where the next tick fetches. Where that place is not plain RAM, pc goes to the start of RAM with
translation off, and RAM is there (log 16). -/
def placeFetchWord (w : Word) (s : State) : State :=
  if fetchesRam s then loadWord w s.pc.toNat s
  else
    loadWord w 0x80000000
      { s with pc := 0x80000000#32, mmu := { s.mmu with mode := .off }, cfg := { s.cfg with memSize := max 4 s.cfg.memSize } }

end Sys2Proof.Machine
end

