-- ==== Sys2Proof/Machine/Step.lean ====
section
/-!
DEFINITION. One tick (spec/70_reset_and_hazards.md R501).
-/
namespace Sys2Proof.Machine

/-- The instruction of the tick, or the exception of its fetch. -/
def runFetched (f : Fetched × State) : Host.Outcome State Fault Refusal :=
  match f.1 with
  | .instr i => exec i f.2
  | .trap e tval => takeException e tval f.2

/-- One tick: host move, clock, fetch, decode, execute, devices, traps. After `exited` no tick runs (R34). -/
def step (s : State) : Host.Outcome State Fault Refusal :=
  match s.exited with
  | some _ => .fault .runEnded
  | none => endTick (runFetched (fetch (beginTick s)))

/-- The instruction with the `nbits` table bits `w` placed where `step` fetches next. -/
def State.withFetchWord (s : State) (nbits w : Nat) : State :=
  placeFetchWord (BitVec.ofNat 32 (w % 2 ^ nbits)) s

end Sys2Proof.Machine
end

