-- ==== Sys2Proof/Safety.lean ====
section
/-!
DEFINITION. The terms the claims use: what a result and a frame are, what a trap entry is, and the invariant of a machine
between two ticks.
-/
namespace Sys2Proof.Machine

/-! ### Results and frames -/

/-- Every byte a bus read can return is the same in both states (20_memory.md R82). -/
def SameBytes (s t : State) : Prop := ∀ a : Word, busPeek a t = busPeek a s

/-- `t` is `s` but for the pc, which is `next`, and for the general register `rd`, which reads `v`; x0 keeps reading 0
(10_state.md R20, 70_reset_and_hazards.md R502). Nothing else differs: no other register, no CSR, no byte. -/
def RetiresTo (s t : State) (rd : Reg) (v next : Word) : Prop :=
  t = { s with regs := t.regs, pc := next } ∧ (∀ r : Reg, t.reg r = if r = rd ∧ rd ≠ 0#5 then v else s.reg r) ∧
    SameBytes s t

/-- The instruction completes: it writes `v` to rd, goes on at pc + 4 and changes nothing else. -/
def Writes (i : Instr) (s : State) (rd : Reg) (v : Word) : Prop :=
  ∃ t, exec i s = .next t ∧ RetiresTo s t rd v (s.pc + 4#32)

/-- The frame of a store of `n` bytes at the physical address `pa`, between the state before and the state after its
bytes went out: registers, pc, mode, clock, reservation and translation stay; of the CSRs at most mip changes (by the
CLINT, 60_exceptions.md R433); a byte of plain storage outside the stored ones, and a byte of the DTB or of no window,
reads as before. What a byte does in a device window is the device's rule. -/
structure StoreFrame (s t : State) (n : Nat) (pa : Word) : Prop where
  fields : t = { s with mem := t.mem, csrs := t.csrs, clint := t.clint, uart := t.uart, rtc := t.rtc, host := { s.host with draws := t.host.draws } }
  csrs : ∀ a : CsrAddr, a ≠ csrMip → t.csr a = s.csr a
  bytes : ∀ a : Word, (∀ i, i < n → a ≠ pa + BitVec.ofNat 32 i) →
    window s.cfg a.toNat ≠ .clint → window s.cfg a.toNat ≠ .rtc → window s.cfg a.toNat ≠ .uart → busPeek a t = busPeek a s

/-! ### Trap entry -/

/-- `t` is `s` after a trap was delivered to M (60_exceptions.md R415, R416, R418): what is saved, what mstatus becomes
bit by bit, where the pc goes, and that nothing else changes but the model's mark `raised`. -/
structure EntersM (s t : State) (pos : Nat) (cause tval epc : Word) : Prop where
  mepc : t.csr csrMepc = epc
  mcause : t.csr csrMcause = cause
  mtval : t.csr csrMtval = tval
  mpie : (t.csr csrMstatus).getLsbD 7 = (s.csr csrMstatus).getLsbD 3
  mpp : (t.csr csrMstatus).extractLsb' 11 2 = s.priv.code
  mie : (t.csr csrMstatus).getLsbD 3 = false
  mstatusRest : ∀ i, i ≠ 3 → i ≠ 7 → i ≠ 11 → i ≠ 12 → (t.csr csrMstatus).getLsbD i = (s.csr csrMstatus).getLsbD i
  csrRest : ∀ a : CsrAddr, a ≠ csrMepc → a ≠ csrMcause → a ≠ csrMtval → a ≠ csrMstatus → t.csr a = s.csr a
  mode : t.priv = .m
  vector : t.pc = if (s.csr csrMtvec).extractLsb' 0 2 = 0#2 then s.csr csrMtvec
    else (s.csr csrMtvec &&& 0xFFFFFFFC#32) + BitVec.ofNat 32 (4 * pos)
  reservation : t.reservation = if s.cfg.reservationClearedOnTrap then none else s.reservation
  rest : t = { s with csrs := t.csrs, pc := t.pc, priv := t.priv, reservation := t.reservation, raised := t.raised }

/-- `t` is `s` after a trap was delivered to S (60_exceptions.md R415, R416, R418). -/
structure EntersS (s t : State) (pos : Nat) (cause tval epc : Word) : Prop where
  sepc : t.csr csrSepc = epc
  scause : t.csr csrScause = cause
  stval : t.csr csrStval = tval
  spie : (t.csr csrMstatus).getLsbD 5 = (s.csr csrMstatus).getLsbD 1
  spp : (t.csr csrMstatus).getLsbD 8 = decide (s.priv ≠ .u)
  sie : (t.csr csrMstatus).getLsbD 1 = false
  mstatusRest : ∀ i, i ≠ 1 → i ≠ 5 → i ≠ 8 → (t.csr csrMstatus).getLsbD i = (s.csr csrMstatus).getLsbD i
  csrRest : ∀ a : CsrAddr, a ≠ csrSepc → a ≠ csrScause → a ≠ csrStval → a ≠ csrMstatus → t.csr a = s.csr a
  mode : t.priv = .s
  vector : t.pc = if (s.csr csrStvec).extractLsb' 0 2 = 0#2 then s.csr csrStvec
    else (s.csr csrStvec &&& 0xFFFFFFFC#32) + BitVec.ofNat 32 (4 * pos)
  reservation : t.reservation = if s.cfg.reservationClearedOnTrap then none else s.reservation
  rest : t = { s with csrs := t.csrs, pc := t.pc, priv := t.priv, reservation := t.reservation, raised := t.raised }

/-- A trap with code `pos` goes to M: neither delegation register has its bit (60_exceptions.md R411). -/
def GoesToM (s : State) (pos : Nat) : Prop :=
  (s.csr csrMedeleg).getLsbD pos = false ∧ (s.csr csrMideleg).getLsbD pos = false

/-- A trap with code `pos` is delegated (60_exceptions.md R411). -/
def Delegated (s : State) (pos : Nat) : Prop :=
  (s.csr csrMedeleg).getLsbD pos = true ∨ (s.csr csrMideleg).getLsbD pos = true

/-- A delegated trap with code `pos` would be demoted to U (60_exceptions.md R411, R414). -/
def Demoted (s : State) (pos : Nat) : Prop :=
  (s.csr csrSedeleg).getLsbD pos = true ∨ (s.csr csrSideleg).getLsbD pos = true

/-- The instruction's own effect is the exception with code `pos` and value `tval`, raised at its pc: it answers a next
state, entered in M, or in S when the trap is delegated. -/
def TakesException (i : Instr) (s : State) (pos : Nat) (tval : Word) : Prop :=
  (GoesToM s pos → ∃ t, exec i s = .next t ∧ t.raised = true ∧ EntersM s t pos (BitVec.ofNat 32 pos) tval s.pc) ∧
  (Delegated s pos → ¬ Demoted s pos →
    ∃ t, exec i s = .next t ∧ t.raised = true ∧ EntersS s t pos (BitVec.ofNat 32 pos) tval s.pc)

/-! ### Which exception an instruction raises -/

/-- The check of a CSR access fails: the address needs a higher mode, or is read-only and would be written (10_state.md
R35; for the addresses with bits 9:8 = 2 see log 21). -/
def CsrDenied (csr : CsrAddr) (writes : Prop) (s : State) : Prop :=
  s.priv.code.toNat < (csr.extractLsb' 8 2).toNat ∨ (csr.extractLsb' 10 2 = 3#2 ∧ writes)

/-- `Raises i s e tval s1`: executed in `s`, the instruction `i` raises the exception `e` with the value `tval`, in the
state `s1` that its page walk left. The whole table of the instruction rules' exceptions (42_loadstore.md R260,
44_atomics.md R300 to R302, 45_csr.md R320, 46_system.md R344 to R347); no other instruction raises one. -/
inductive Raises : Instr → State → Exc → Word → State → Prop where
  | ecall {s : State} {e : Exc} : ¬ (s.reg 17#5 = 93#32 ∧ s.cfg.ecallExitEnabled = true) →
      (s.priv, e) ∈ [(Priv.u, Exc.environmentCallFromUMode), (.s, .environmentCallFromSMode), (.m, .environmentCallFromMMode)] →
      Raises .ecall s e 0#32 s
  | ebreak {s : State} : Raises .ebreak s .breakpoint s.pc s
  | mret {s : State} : s.cfg.xretPrivCheck = true → s.priv ≠ .m → Raises .mret s .illegalInstruction 0x30200073#32 s
  | sret {s : State} : s.cfg.xretPrivCheck = true → s.priv = .u → Raises .sret s .illegalInstruction 0x10200073#32 s
  | csrWrite {i : Instr} {s : State} {rd field : Reg} {csr : CsrAddr} :
      i ∈ [Instr.csrrw rd field csr, .csrrwi rd field csr] → CsrDenied csr True s →
      Raises i s .illegalInstruction (encode i) s
  | csrModify {i : Instr} {s : State} {rd field : Reg} {csr : CsrAddr} :
      i ∈ [Instr.csrrs rd field csr, .csrrc rd field csr, .csrrsi rd field csr, .csrrci rd field csr] →
      CsrDenied csr (field ≠ 0#5) s → Raises i s .illegalInstruction (encode i) s
  | load {i : Instr} {s s1 : State} {rd rs1 : Reg} {imm : Word} :
      i ∈ [Instr.lb rd rs1 imm, .lh rd rs1 imm, .lw rd rs1 imm, .lbu rd rs1 imm, .lhu rd rs1 imm] →
      translate (s.reg rs1 + imm) .read s = (none, s1) → Raises i s .loadPageFault (s.reg rs1 + imm) s1
  | store {i : Instr} {s s1 : State} {rs1 rs2 : Reg} {imm : Word} :
      i ∈ [Instr.sb rs1 rs2 imm, .sh rs1 rs2 imm, .sw rs1 rs2 imm] →
      translate (s.reg rs1 + imm) .write s = (none, s1) → Raises i s .storePageFault (s.reg rs1 + imm) s1
  | loadReserved {s s1 : State} {rd rs1 : Reg} {aq rl : Bool} :
      translate (s.reg rs1) .read s = (none, s1) → Raises (.lrW rd rs1 aq rl) s .loadPageFault (s.reg rs1) s1
  | storeConditional {s s1 : State} {rd rs1 rs2 : Reg} {aq rl : Bool} : s.reservation = some (s.reg rs1) →
      translate (s.reg rs1) .write s = (none, s1) → Raises (.scW rd rs1 rs2 aq rl) s .storePageFault (s.reg rs1) s1
  | amo {i : Instr} {s s1 : State} {rd rs1 rs2 : Reg} {aq rl : Bool} :
      i ∈ [Instr.amoswapW rd rs1 rs2 aq rl, .amoaddW rd rs1 rs2 aq rl, .amoxorW rd rs1 rs2 aq rl,
        .amoandW rd rs1 rs2 aq rl, .amoorW rd rs1 rs2 aq rl, .amominW rd rs1 rs2 aq rl, .amomaxW rd rs1 rs2 aq rl,
        .amominuW rd rs1 rs2 aq rl, .amomaxuW rd rs1 rs2 aq rl] →
      translate (s.reg rs1) .write s = (none, s1) → Raises i s .storePageFault (s.reg rs1) s1

/-! ### The invariant between ticks -/

/-- CSR addresses whose array entry nothing writes: the views and constants of 10_state.md R38, R40, R45, R46, R50 and
the read-only addresses (R35, R47). -/
def csrUnstored (a : CsrAddr) : Bool :=
  a == csrSstatus || a == csrSie || a == csrSip || a == csrSatp || a == csrMcycle || a == csrNetTxBase
    || a == csrNetRxBase || csrReadOnly a

/-- The address is a byte of plain storage: RAM, a network buffer or the MTD window (10_state.md R32, R33). -/
def storageAt (c : Launch) (a : Nat) : Bool :=
  match window c a with
  | .ram => true
  | .netTx => true
  | .netRx => true
  | .mtd => true
  | .dtb => false
  | .clint => false
  | .rtc => false
  | .uart => false
  | .unmapped => false

/-- The UART's registers agree (20_memory.md R89, R90, R93, R94): TEMT stays 1 and LSR's unused bits 0; a pending
receive interrupt has its data-available bit, and without that bit RBR is 0; a pending transmit interrupt has THR empty,
and an empty THR holds 0. -/
def uartOk (u : Uart) : Bool :=
  u.lsr &&& 0xDE#8 == 0x40#8 && (!u.rxIp || u.lsr.getLsbD 0) && (u.lsr.getLsbD 0 || u.rbr == 0#8)
    && (!u.threIp || u.lsr.getLsbD 5) && (!u.lsr.getLsbD 5 || u.thr == 0#8)

/-- What holds of the machine between two ticks. -/
structure Inv (s : State) : Prop where
  /-- the memory list has its canonical form -/
  memory : s.mem.wf = true
  /-- and lists bytes of plain storage only, in the 32-bit space (20_memory.md R70, R80) -/
  memoryPlace : ∀ c ∈ s.mem, c.1 < 4294967296 ∧ storageAt s.cfg c.1 = true
  /-- the CSR list has its canonical form -/
  csrFile : Sparse.wf 0#32 s.csrs = true
  /-- and lists the 4096 addresses only (10_state.md R27) -/
  csrPlace : ∀ c ∈ s.csrs, c.1 < 4096
  /-- x0's cell holds 0 (10_state.md R20) -/
  zero : s.regs[0] = 0#32
  /-- mideleg holds no bit outside 0x666 (10_state.md R41) -/
  mideleg : s.csr csrMideleg &&& ~~~0x666#32 = 0#32
  /-- views, constants and read-only addresses have no contents of their own (10_state.md R38, R47) -/
  unstored : ∀ a : CsrAddr, csrUnstored a = true → s.csr a = 0#32
  /-- the UART's registers agree -/
  uart : uartOk s.uart = true
  /-- no trap is half delivered (70_reset_and_hazards.md R501) -/
  settled : s.raised = false

end Sys2Proof.Machine
end

