-- ==== Sys2Proof/Certificates/Slice0/Obligations.lean ====
section
/-!
DEFINITION. The statements for the provers. Each docstring names the rules of spec/ it formalises and, where a clause
rests on a decision or an inference the spec marks as its own, or on a choice of the model, says so.
-/
open Sys2Proof Sys2Proof.Machine

/-! ### Encoding and decoding (30_encoding.md) -/

/-- Every well-formed instruction, with every operand at every value its fields admit, is decoded from its word. -/
def Obligations.DecodeUndoesEncode : Prop :=
  ∀ i : Instr, i.wf = true → decode (encode i) = .ok i

/-- Whatever a word decodes to is well-formed and encodes to that word: no bit of a legal word is dropped. -/
def Obligations.EncodeUndoesDecode : Prop :=
  ∀ (w : Word) (i : Instr), decode w = .ok i → i.wf = true ∧ encode i = w

/-- The opcode table (R145, R147): a word that agrees with a row's match under its mask is that row's instruction, with
the register, CSR and ignored fields at the positions of R141. The match values are the spec's "general knowledge". -/
def Obligations.OpcodeTableDecodes : Prop :=
  ∀ w : Word,
    (w &&& 0x0000007f#32 = 0x00000017#32 → decode w = .ok (.auipc (w.extractLsb' 7 5) (immU w))) ∧
    (w &&& 0x0000007f#32 = 0x00000037#32 → decode w = .ok (.lui (w.extractLsb' 7 5) (immU w))) ∧
    (w &&& 0x0000007f#32 = 0x0000006f#32 → decode w = .ok (.jal (w.extractLsb' 7 5) (immJ w))) ∧
    (w &&& 0x0000707f#32 = 0x00000063#32 → decode w = .ok (.beq (w.extractLsb' 15 5) (w.extractLsb' 20 5) (immB w))) ∧
    (w &&& 0x0000707f#32 = 0x00000067#32 → decode w = .ok (.jalr (w.extractLsb' 7 5) (w.extractLsb' 15 5) (immI w))) ∧
    (w &&& 0x0000707f#32 = 0x00001063#32 → decode w = .ok (.bne (w.extractLsb' 15 5) (w.extractLsb' 20 5) (immB w))) ∧
    (w &&& 0x0000707f#32 = 0x00004063#32 → decode w = .ok (.blt (w.extractLsb' 15 5) (w.extractLsb' 20 5) (immB w))) ∧
    (w &&& 0x0000707f#32 = 0x00005063#32 → decode w = .ok (.bge (w.extractLsb' 15 5) (w.extractLsb' 20 5) (immB w))) ∧
    (w &&& 0x0000707f#32 = 0x00006063#32 → decode w = .ok (.bltu (w.extractLsb' 15 5) (w.extractLsb' 20 5) (immB w))) ∧
    (w &&& 0x0000707f#32 = 0x00007063#32 → decode w = .ok (.bgeu (w.extractLsb' 15 5) (w.extractLsb' 20 5) (immB w))) ∧
    (w &&& 0x0000707f#32 = 0x00000003#32 → decode w = .ok (.lb (w.extractLsb' 7 5) (w.extractLsb' 15 5) (immI w))) ∧
    (w &&& 0x0000707f#32 = 0x00000023#32 → decode w = .ok (.sb (w.extractLsb' 15 5) (w.extractLsb' 20 5) (immS w))) ∧
    (w &&& 0x0000707f#32 = 0x00001003#32 → decode w = .ok (.lh (w.extractLsb' 7 5) (w.extractLsb' 15 5) (immI w))) ∧
    (w &&& 0x0000707f#32 = 0x00001023#32 → decode w = .ok (.sh (w.extractLsb' 15 5) (w.extractLsb' 20 5) (immS w))) ∧
    (w &&& 0x0000707f#32 = 0x00002003#32 → decode w = .ok (.lw (w.extractLsb' 7 5) (w.extractLsb' 15 5) (immI w))) ∧
    (w &&& 0x0000707f#32 = 0x00002023#32 → decode w = .ok (.sw (w.extractLsb' 15 5) (w.extractLsb' 20 5) (immS w))) ∧
    (w &&& 0x0000707f#32 = 0x00004003#32 → decode w = .ok (.lbu (w.extractLsb' 7 5) (w.extractLsb' 15 5) (immI w))) ∧
    (w &&& 0x0000707f#32 = 0x00005003#32 → decode w = .ok (.lhu (w.extractLsb' 7 5) (w.extractLsb' 15 5) (immI w))) ∧
    (w &&& 0x0000707f#32 = 0x00000013#32 → decode w = .ok (.addi (w.extractLsb' 7 5) (w.extractLsb' 15 5) (immI w))) ∧
    (w &&& 0x0000707f#32 = 0x00002013#32 → decode w = .ok (.slti (w.extractLsb' 7 5) (w.extractLsb' 15 5) (immI w))) ∧
    (w &&& 0x0000707f#32 = 0x00003013#32 → decode w = .ok (.sltiu (w.extractLsb' 7 5) (w.extractLsb' 15 5) (immI w))) ∧
    (w &&& 0x0000707f#32 = 0x00004013#32 → decode w = .ok (.xori (w.extractLsb' 7 5) (w.extractLsb' 15 5) (immI w))) ∧
    (w &&& 0x0000707f#32 = 0x00006013#32 → decode w = .ok (.ori (w.extractLsb' 7 5) (w.extractLsb' 15 5) (immI w))) ∧
    (w &&& 0x0000707f#32 = 0x00007013#32 → decode w = .ok (.andi (w.extractLsb' 7 5) (w.extractLsb' 15 5) (immI w))) ∧
    (w &&& 0x0000707f#32 = 0x0000000f#32 → decode w = .ok (.fence (w.extractLsb' 28 4) (w.extractLsb' 24 4) (w.extractLsb' 20 4) (w.extractLsb' 15 5) (w.extractLsb' 7 5))) ∧
    (w &&& 0x0000707f#32 = 0x0000100f#32 → decode w = .ok (.fenceI (w.extractLsb' 20 12) (w.extractLsb' 15 5) (w.extractLsb' 7 5))) ∧
    (w &&& 0x0000707f#32 = 0x00001073#32 → decode w = .ok (.csrrw (w.extractLsb' 7 5) (w.extractLsb' 15 5) (w.extractLsb' 20 12))) ∧
    (w &&& 0x0000707f#32 = 0x00002073#32 → decode w = .ok (.csrrs (w.extractLsb' 7 5) (w.extractLsb' 15 5) (w.extractLsb' 20 12))) ∧
    (w &&& 0x0000707f#32 = 0x00003073#32 → decode w = .ok (.csrrc (w.extractLsb' 7 5) (w.extractLsb' 15 5) (w.extractLsb' 20 12))) ∧
    (w &&& 0x0000707f#32 = 0x00005073#32 → decode w = .ok (.csrrwi (w.extractLsb' 7 5) (w.extractLsb' 15 5) (w.extractLsb' 20 12))) ∧
    (w &&& 0x0000707f#32 = 0x00006073#32 → decode w = .ok (.csrrsi (w.extractLsb' 7 5) (w.extractLsb' 15 5) (w.extractLsb' 20 12))) ∧
    (w &&& 0x0000707f#32 = 0x00007073#32 → decode w = .ok (.csrrci (w.extractLsb' 7 5) (w.extractLsb' 15 5) (w.extractLsb' 20 12))) ∧
    (w &&& 0xf800707f#32 = 0x0000202f#32 → decode w = .ok (.amoaddW (w.extractLsb' 7 5) (w.extractLsb' 15 5) (w.extractLsb' 20 5) (w.getLsbD 26) (w.getLsbD 25))) ∧
    (w &&& 0xf800707f#32 = 0x0800202f#32 → decode w = .ok (.amoswapW (w.extractLsb' 7 5) (w.extractLsb' 15 5) (w.extractLsb' 20 5) (w.getLsbD 26) (w.getLsbD 25))) ∧
    (w &&& 0xf800707f#32 = 0x1800202f#32 → decode w = .ok (.scW (w.extractLsb' 7 5) (w.extractLsb' 15 5) (w.extractLsb' 20 5) (w.getLsbD 26) (w.getLsbD 25))) ∧
    (w &&& 0xf800707f#32 = 0x2000202f#32 → decode w = .ok (.amoxorW (w.extractLsb' 7 5) (w.extractLsb' 15 5) (w.extractLsb' 20 5) (w.getLsbD 26) (w.getLsbD 25))) ∧
    (w &&& 0xf800707f#32 = 0x4000202f#32 → decode w = .ok (.amoorW (w.extractLsb' 7 5) (w.extractLsb' 15 5) (w.extractLsb' 20 5) (w.getLsbD 26) (w.getLsbD 25))) ∧
    (w &&& 0xf800707f#32 = 0x6000202f#32 → decode w = .ok (.amoandW (w.extractLsb' 7 5) (w.extractLsb' 15 5) (w.extractLsb' 20 5) (w.getLsbD 26) (w.getLsbD 25))) ∧
    (w &&& 0xf800707f#32 = 0x8000202f#32 → decode w = .ok (.amominW (w.extractLsb' 7 5) (w.extractLsb' 15 5) (w.extractLsb' 20 5) (w.getLsbD 26) (w.getLsbD 25))) ∧
    (w &&& 0xf800707f#32 = 0xa000202f#32 → decode w = .ok (.amomaxW (w.extractLsb' 7 5) (w.extractLsb' 15 5) (w.extractLsb' 20 5) (w.getLsbD 26) (w.getLsbD 25))) ∧
    (w &&& 0xf800707f#32 = 0xc000202f#32 → decode w = .ok (.amominuW (w.extractLsb' 7 5) (w.extractLsb' 15 5) (w.extractLsb' 20 5) (w.getLsbD 26) (w.getLsbD 25))) ∧
    (w &&& 0xf800707f#32 = 0xe000202f#32 → decode w = .ok (.amomaxuW (w.extractLsb' 7 5) (w.extractLsb' 15 5) (w.extractLsb' 20 5) (w.getLsbD 26) (w.getLsbD 25))) ∧
    (w &&& 0xf9f0707f#32 = 0x1000202f#32 → decode w = .ok (.lrW (w.extractLsb' 7 5) (w.extractLsb' 15 5) (w.getLsbD 26) (w.getLsbD 25))) ∧
    (w &&& 0xfc00707f#32 = 0x00001013#32 → decode w = .ok (.slli (w.extractLsb' 7 5) (w.extractLsb' 15 5) (w.extractLsb' 20 5) (w.getLsbD 25))) ∧
    (w &&& 0xfc00707f#32 = 0x00005013#32 → decode w = .ok (.srli (w.extractLsb' 7 5) (w.extractLsb' 15 5) (w.extractLsb' 20 5) (w.getLsbD 25))) ∧
    (w &&& 0xfc00707f#32 = 0x40005013#32 → decode w = .ok (.srai (w.extractLsb' 7 5) (w.extractLsb' 15 5) (w.extractLsb' 20 5) (w.getLsbD 25))) ∧
    (w &&& 0xfe00707f#32 = 0x00000033#32 → decode w = .ok (.add (w.extractLsb' 7 5) (w.extractLsb' 15 5) (w.extractLsb' 20 5))) ∧
    (w &&& 0xfe00707f#32 = 0x00001033#32 → decode w = .ok (.sll (w.extractLsb' 7 5) (w.extractLsb' 15 5) (w.extractLsb' 20 5))) ∧
    (w &&& 0xfe00707f#32 = 0x00002033#32 → decode w = .ok (.slt (w.extractLsb' 7 5) (w.extractLsb' 15 5) (w.extractLsb' 20 5))) ∧
    (w &&& 0xfe00707f#32 = 0x00003033#32 → decode w = .ok (.sltu (w.extractLsb' 7 5) (w.extractLsb' 15 5) (w.extractLsb' 20 5))) ∧
    (w &&& 0xfe00707f#32 = 0x00004033#32 → decode w = .ok (.xor (w.extractLsb' 7 5) (w.extractLsb' 15 5) (w.extractLsb' 20 5))) ∧
    (w &&& 0xfe00707f#32 = 0x00005033#32 → decode w = .ok (.srl (w.extractLsb' 7 5) (w.extractLsb' 15 5) (w.extractLsb' 20 5))) ∧
    (w &&& 0xfe00707f#32 = 0x00006033#32 → decode w = .ok (.or (w.extractLsb' 7 5) (w.extractLsb' 15 5) (w.extractLsb' 20 5))) ∧
    (w &&& 0xfe00707f#32 = 0x00007033#32 → decode w = .ok (.and (w.extractLsb' 7 5) (w.extractLsb' 15 5) (w.extractLsb' 20 5))) ∧
    (w &&& 0xfe00707f#32 = 0x02000033#32 → decode w = .ok (.mul (w.extractLsb' 7 5) (w.extractLsb' 15 5) (w.extractLsb' 20 5))) ∧
    (w &&& 0xfe00707f#32 = 0x02001033#32 → decode w = .ok (.mulh (w.extractLsb' 7 5) (w.extractLsb' 15 5) (w.extractLsb' 20 5))) ∧
    (w &&& 0xfe00707f#32 = 0x02002033#32 → decode w = .ok (.mulhsu (w.extractLsb' 7 5) (w.extractLsb' 15 5) (w.extractLsb' 20 5))) ∧
    (w &&& 0xfe00707f#32 = 0x02003033#32 → decode w = .ok (.mulhu (w.extractLsb' 7 5) (w.extractLsb' 15 5) (w.extractLsb' 20 5))) ∧
    (w &&& 0xfe00707f#32 = 0x02004033#32 → decode w = .ok (.div (w.extractLsb' 7 5) (w.extractLsb' 15 5) (w.extractLsb' 20 5))) ∧
    (w &&& 0xfe00707f#32 = 0x02005033#32 → decode w = .ok (.divu (w.extractLsb' 7 5) (w.extractLsb' 15 5) (w.extractLsb' 20 5))) ∧
    (w &&& 0xfe00707f#32 = 0x02006033#32 → decode w = .ok (.rem (w.extractLsb' 7 5) (w.extractLsb' 15 5) (w.extractLsb' 20 5))) ∧
    (w &&& 0xfe00707f#32 = 0x02007033#32 → decode w = .ok (.remu (w.extractLsb' 7 5) (w.extractLsb' 15 5) (w.extractLsb' 20 5))) ∧
    (w &&& 0xfe00707f#32 = 0x40000033#32 → decode w = .ok (.sub (w.extractLsb' 7 5) (w.extractLsb' 15 5) (w.extractLsb' 20 5))) ∧
    (w &&& 0xfe00707f#32 = 0x40005033#32 → decode w = .ok (.sra (w.extractLsb' 7 5) (w.extractLsb' 15 5) (w.extractLsb' 20 5))) ∧
    (w &&& 0xfe007fff#32 = 0x12000073#32 → decode w = .ok (.sfenceVma (w.extractLsb' 15 5) (w.extractLsb' 20 5))) ∧
    (w &&& 0xffffffff#32 = 0x00000073#32 → decode w = .ok (.ecall)) ∧
    (w &&& 0xffffffff#32 = 0x00100073#32 → decode w = .ok (.ebreak)) ∧
    (w &&& 0xffffffff#32 = 0x10200073#32 → decode w = .ok (.sret)) ∧
    (w &&& 0xffffffff#32 = 0x10500073#32 → decode w = .ok (.wfi)) ∧
    (w &&& 0xffffffff#32 = 0x30200073#32 → decode w = .ok (.mret))

/-- The immediates (R143) as numbers, each the two's-complement reading of its field bits, the low bit of B and J zero. -/
def Obligations.ImmediatesAreFieldNumbers : Prop :=
  ∀ w : Word,
    (immI w).toInt = (w.extractLsb' 20 12).toInt ∧
    (immS w).toInt = (w.extractLsb' 25 7 ++ w.extractLsb' 7 5 : BitVec 12).toInt ∧
    (immB w).toInt = 2 * (w.extractLsb' 31 1 ++ w.extractLsb' 7 1 ++ w.extractLsb' 25 6 ++ w.extractLsb' 8 4 : BitVec 12).toInt ∧
    (immU w).toNat = 4096 * (w.extractLsb' 12 20).toNat ∧
    (immJ w).toInt = 2 * (w.extractLsb' 31 1 ++ w.extractLsb' 12 8 ++ w.extractLsb' 20 1 ++ w.extractLsb' 21 10 : BitVec 20).toInt ∧
    (-2048 ≤ (immI w).toInt ∧ (immI w).toInt ≤ 2047) ∧ (-2048 ≤ (immS w).toInt ∧ (immS w).toInt ≤ 2047) ∧
    (-4096 ≤ (immB w).toInt ∧ (immB w).toInt ≤ 4094) ∧ (-1048576 ≤ (immJ w).toInt ∧ (immJ w).toInt ≤ 1048574)

/-- The illegal encodings, all of them (R148): a word is refused exactly when it lies in one of these classes. -/
def Obligations.IllegalWordsExactly : Prop :=
  ∀ w : Word,
    let op := w.extractLsb' 0 7
    let f3 := w.extractLsb' 12 3
    let f5 := w.extractLsb' 27 5
    let f6 := w.extractLsb' 26 6
    let f7 := w.extractLsb' 25 7
    decode w = .error (.noTableRow w) ↔
      op ∉ [0x37#7, 0x17#7, 0x6F#7, 0x67#7, 0x63#7, 0x03#7, 0x23#7, 0x13#7, 0x33#7, 0x0F#7, 0x2F#7, 0x73#7] ∨
      (op = 0x03#7 ∧ f3 ∈ [3#3, 6#3, 7#3]) ∨
      (op = 0x23#7 ∧ f3 ∈ [3#3, 4#3, 5#3, 6#3, 7#3]) ∨
      (op = 0x63#7 ∧ f3 ∈ [2#3, 3#3]) ∨
      (op = 0x67#7 ∧ f3 ≠ 0#3) ∨
      (op = 0x0F#7 ∧ f3 ≠ 0#3 ∧ f3 ≠ 1#3) ∨
      (op = 0x13#7 ∧ ((f3 = 1#3 ∧ f6 ≠ 0#6) ∨ (f3 = 5#3 ∧ f6 ≠ 0#6 ∧ f6 ≠ 0x10#6))) ∨
      (op = 0x33#7 ∧ f7 ≠ 0#7 ∧ f7 ≠ 1#7 ∧ ¬ (f7 = 0x20#7 ∧ (f3 = 0#3 ∨ f3 = 5#3))) ∨
      (op = 0x2F#7 ∧ (f3 ≠ 2#3 ∨ f5 ∉ [2#5, 3#5, 1#5, 0#5, 4#5, 12#5, 8#5, 16#5, 20#5, 24#5, 28#5] ∨
        (f5 = 2#5 ∧ w.extractLsb' 20 5 ≠ 0#5))) ∨
      (op = 0x73#7 ∧ (f3 = 4#3 ∨ (f3 = 0#3 ∧ ¬ (f7 = 9#7 ∧ w.extractLsb' 7 5 = 0#5) ∧
        w ∉ [0x00000073#32, 0x00100073#32, 0x10200073#32, 0x30200073#32, 0x10500073#32])))

/-- Words of the spec's examples decode to the instructions they stand for. -/
def Obligations.SampleWordsDecode : Prop :=
  decode 0xDEADB2B7#32 = .ok (.lui 5#5 0xDEADB000#32) ∧
  decode 0x00808093#32 = .ok (.addi 1#5 1#5 8#32) ∧
  decode 0x403150B3#32 = .ok (.sra 1#5 2#5 3#5) ∧
  decode 0x00310463#32 = .ok (.beq 2#5 3#5 8#32) ∧
  decode 0xFFC12083#32 = .ok (.lw 1#5 2#5 0xFFFFFFFC#32) ∧
  decode 0x00311123#32 = .ok (.sh 2#5 3#5 2#32) ∧
  decode 0x023120B3#32 = .ok (.mulhsu 1#5 2#5 3#5) ∧
  decode 0x1840A1AF#32 = .ok (.scW 3#5 1#5 4#5 false false) ∧
  decode 0x100120F3#32 = .ok (.csrrs 1#5 2#5 0x100#12) ∧
  decode 0x30200073#32 = .ok .mret ∧
  decode 0x00000000#32 = .error (.noTableRow 0x00000000#32)

/-! ### General registers (10_state.md R20) -/

/-- There are 32 registers; x0 reads 0 and discards a write, any other register holds what was written and a write
leaves the rest; at reset x11 is 0x1020 and every other register 0. -/
def Obligations.RegistersHoldWrites : Prop :=
  (∀ s : State, s.reg 0#5 = 0#32) ∧
  (∀ (s : State) (rd : Reg) (v : Word) (r : Reg),
    (s.setReg rd v).reg r = if r = rd ∧ rd ≠ 0#5 then v else s.reg r) ∧
  (∀ r : Reg, State.reset.reg r = if r = 11#5 then 0x1020#32 else 0#32)

/-! ### Integer computation (40_alu.md) -/

/-- LUI writes the immediate, AUIPC the immediate plus its own pc (R201, R202). -/
def Obligations.UpperImmediateResults : Prop :=
  ∀ (rd : Reg) (imm : Word) (s : State),
    Writes (.lui rd imm) s rd imm ∧ Writes (.auipc rd imm) s rd (s.pc + imm)

/-- ADDI, SLTI, SLTIU, XORI, ORI, ANDI (R203 to R208): the comparisons are of the signed and of the unsigned numbers. -/
def Obligations.AluImmediateResults : Prop :=
  ∀ (rd rs1 : Reg) (imm : Word) (s : State),
    Writes (.addi rd rs1 imm) s rd (s.reg rs1 + imm) ∧
    Writes (.slti rd rs1 imm) s rd (if (s.reg rs1).toInt < imm.toInt then 1#32 else 0#32) ∧
    Writes (.sltiu rd rs1 imm) s rd (if (s.reg rs1).toNat < imm.toNat then 1#32 else 0#32) ∧
    Writes (.xori rd rs1 imm) s rd (s.reg rs1 ^^^ imm) ∧
    Writes (.ori rd rs1 imm) s rd (s.reg rs1 ||| imm) ∧
    Writes (.andi rd rs1 imm) s rd (s.reg rs1 &&& imm)

/-- ADD, SUB, SLT, SLTU, XOR, OR, AND (R212, R213, R215 to R217, R220, R221). -/
def Obligations.AluRegisterResults : Prop :=
  ∀ (rd rs1 rs2 : Reg) (s : State),
    Writes (.add rd rs1 rs2) s rd (s.reg rs1 + s.reg rs2) ∧
    Writes (.sub rd rs1 rs2) s rd (s.reg rs1 - s.reg rs2) ∧
    Writes (.slt rd rs1 rs2) s rd (if (s.reg rs1).toInt < (s.reg rs2).toInt then 1#32 else 0#32) ∧
    Writes (.sltu rd rs1 rs2) s rd (if (s.reg rs1).toNat < (s.reg rs2).toNat then 1#32 else 0#32) ∧
    Writes (.xor rd rs1 rs2) s rd (s.reg rs1 ^^^ s.reg rs2) ∧
    Writes (.or rd rs1 rs2) s rd (s.reg rs1 ||| s.reg rs2) ∧
    Writes (.and rd rs1 rs2) s rd (s.reg rs1 &&& s.reg rs2)

/-- The shifts by an immediate and by the low five bits of a register (R209 to R211, R214, R218, R219), as numbers: a
left shift is a product modulo 2^32, a logical right shift a quotient, an arithmetic one the signed number divided
rounding down, which is the formula of R211. Bit 25 of an immediate shift has no effect. The use of the low five bits of
rs2 is the spec's "general knowledge". -/
def Obligations.ShiftResults : Prop :=
  ∀ (rd rs1 rs2 : Reg) (sh : BitVec 5) (b : Bool) (s : State),
    (∃ v, Writes (.slli rd rs1 sh b) s rd v ∧ v.toNat = (s.reg rs1).toNat * 2 ^ sh.toNat % 4294967296) ∧
    (∃ v, Writes (.srli rd rs1 sh b) s rd v ∧ v.toNat = (s.reg rs1).toNat / 2 ^ sh.toNat) ∧
    (∃ v, Writes (.srai rd rs1 sh b) s rd v ∧ v.toInt = (s.reg rs1).toInt / 2 ^ sh.toNat) ∧
    (∃ v, Writes (.sll rd rs1 rs2) s rd v ∧ v.toNat = (s.reg rs1).toNat * 2 ^ ((s.reg rs2).toNat % 32) % 4294967296) ∧
    (∃ v, Writes (.srl rd rs1 rs2) s rd v ∧ v.toNat = (s.reg rs1).toNat / 2 ^ ((s.reg rs2).toNat % 32)) ∧
    (∃ v, Writes (.sra rd rs1 rs2) s rd v ∧ v.toInt = (s.reg rs1).toInt / 2 ^ ((s.reg rs2).toNat % 32))

/-- The laws of R222, between instructions: subtraction is addition of the negation, commutativity, signed comparison is
unsigned comparison with the sign bits flipped, the arithmetic shift of a non-negative number is the logical one and by
31 leaves 0 or all ones, only the shift amount modulo 32 counts, and LUI then ADDI loads any constant. -/
def Obligations.AluLaws : Prop :=
  (∀ (rd a b c : Reg) (s : State),
    (s.reg c = ~~~(s.reg b) + 1#32 → exec (.sub rd a b) s = exec (.add rd a c) s) ∧
    exec (.add rd a b) s = exec (.add rd b a) s ∧ exec (.xor rd a b) s = exec (.xor rd b a) s ∧
    exec (.or rd a b) s = exec (.or rd b a) s ∧ exec (.and rd a b) s = exec (.and rd b a) s ∧
    ((s.reg a).getLsbD 31 = false → exec (.sra rd a b) s = exec (.srl rd a b) s) ∧
    ((s.reg b).toNat % 32 = 31 → ∃ v, Writes (.sra rd a b) s rd v ∧ (v = 0#32 ∨ v = 0xFFFFFFFF#32)) ∧
    ((s.reg b).toNat % 32 = 0 → Writes (.sll rd a b) s rd (s.reg a) ∧ Writes (.srl rd a b) s rd (s.reg a) ∧
      Writes (.sra rd a b) s rd (s.reg a)) ∧
    ((s.reg b).toNat % 32 = (s.reg c).toNat % 32 → exec (.sll rd a b) s = exec (.sll rd a c) s ∧
      exec (.srl rd a b) s = exec (.srl rd a c) s ∧ exec (.sra rd a b) s = exec (.sra rd a c) s)) ∧
  (∀ (rd a b c d : Reg) (s : State), s.reg c = s.reg a ^^^ 0x80000000#32 → s.reg d = s.reg b ^^^ 0x80000000#32 →
    exec (.slt rd a b) s = exec (.sltu rd c d) s) ∧
  (∀ (rd : Reg) (v : Word) (s : State), rd ≠ 0#5 →
    ∃ t u, exec (.lui rd ((v + 0x800#32) &&& 0xFFFFF000#32)) s = .next t ∧
      exec (.addi rd rd ((v.extractLsb' 0 12).signExtend 32)) t = .next u ∧ u.reg rd = v ∧ u.pc = s.pc + 8#32)

/-! ### Control transfer (41_control.md) -/

/-- JAL and JALR (R240, R241): the link is pc + 4; JALR's target uses rs1 as it was before rd is written and has bit 0
cleared. No target is checked. -/
def Obligations.JumpsLinkAndGo : Prop :=
  ∀ (rd rs1 : Reg) (imm : Word) (s : State),
    (∃ t, exec (.jal rd imm) s = .next t ∧ RetiresTo s t rd (s.pc + 4#32) (s.pc + imm)) ∧
    (∃ t, exec (.jalr rd rs1 imm) s = .next t ∧
      RetiresTo s t rd (s.pc + 4#32) ((s.reg rs1 + imm) &&& 0xFFFFFFFE#32))

/-- The six branches (R242 to R247): only the pc changes, to pc + imm when the condition of the mnemonic holds and to
pc + 4 otherwise. -/
def Obligations.BranchesGoByCondition : Prop :=
  ∀ (a b : Reg) (imm : Word) (s : State),
    exec (.beq a b imm) s = .next { s with pc := if s.reg a = s.reg b then s.pc + imm else s.pc + 4#32 } ∧
    exec (.bne a b imm) s = .next { s with pc := if s.reg a ≠ s.reg b then s.pc + imm else s.pc + 4#32 } ∧
    exec (.blt a b imm) s = .next { s with pc := if (s.reg a).toInt < (s.reg b).toInt then s.pc + imm else s.pc + 4#32 } ∧
    exec (.bge a b imm) s = .next { s with pc := if (s.reg b).toInt ≤ (s.reg a).toInt then s.pc + imm else s.pc + 4#32 } ∧
    exec (.bltu a b imm) s = .next { s with pc := if (s.reg a).toNat < (s.reg b).toNat then s.pc + imm else s.pc + 4#32 } ∧
    exec (.bgeu a b imm) s = .next { s with pc := if (s.reg b).toNat ≤ (s.reg a).toNat then s.pc + imm else s.pc + 4#32 }

/-- The branch laws of R248: of each pair of opposite branches exactly one is taken; equal operands take BEQ, BGE and
BGEU only; from a pc with bit 0 clear a branch with an immediate its format assembles goes to an address with bit 0
clear. -/
def Obligations.BranchLaws : Prop :=
  ∀ (a b : Reg) (imm : Word) (s : State),
    let taken : Result := .next { s with pc := s.pc + imm }
    let untaken : Result := .next { s with pc := s.pc + 4#32 }
    ((exec (.beq a b imm) s = taken ∧ exec (.bne a b imm) s = untaken) ∨
      (exec (.beq a b imm) s = untaken ∧ exec (.bne a b imm) s = taken)) ∧
    ((exec (.blt a b imm) s = taken ∧ exec (.bge a b imm) s = untaken) ∨
      (exec (.blt a b imm) s = untaken ∧ exec (.bge a b imm) s = taken)) ∧
    ((exec (.bltu a b imm) s = taken ∧ exec (.bgeu a b imm) s = untaken) ∨
      (exec (.bltu a b imm) s = untaken ∧ exec (.bgeu a b imm) s = taken)) ∧
    (exec (.beq a a imm) s = taken ∧ exec (.bge a a imm) s = taken ∧ exec (.bgeu a a imm) s = taken ∧
      exec (.bne a a imm) s = untaken ∧ exec (.blt a a imm) s = untaken ∧ exec (.bltu a a imm) s = untaken) ∧
    (immBok imm = true → s.pc.getLsbD 0 = false →
      ∀ i ∈ [Instr.beq a b imm, .bne a b imm, .blt a b imm, .bge a b imm, .bltu a b imm, .bgeu a b imm],
        ∃ t, exec i s = .next t ∧ t.pc.getLsbD 0 = false)

/-! ### Loads and stores (42_loadstore.md, 20_memory.md) -/

/-- The multi-byte accesses (20_memory.md R71, R72): bytes go in ascending order, each with its own side effects, the
lowest address least significant; addresses wrap at 2^32 (decision D4). -/
def Obligations.BusIsByteOrdered : Prop :=
  ∀ (pa v : Word) (s : State),
    (let s1 := busReadEffect pa s
     let s2 := busReadEffect (pa + 1#32) s1
     let s3 := busReadEffect (pa + 2#32) s2
     busRead 4 pa s =
      (busPeek (pa + 3#32) s3 ++ busPeek (pa + 2#32) s2 ++ busPeek (pa + 1#32) s1 ++ busPeek pa s,
        busReadEffect (pa + 3#32) s3) ∧
     busRead 2 pa s = ((busPeek (pa + 1#32) s1 ++ busPeek pa s).setWidth 32, s2) ∧
     busRead 1 pa s = ((busPeek pa s).setWidth 32, s1)) ∧
    (let s1 := busWriteByte pa (v.extractLsb' 0 8) s
     let s2 := busWriteByte (pa + 1#32) (v.extractLsb' 8 8) s1
     let s3 := busWriteByte (pa + 2#32) (v.extractLsb' 16 8) s2
     busWrite 4 pa v s = busWriteByte (pa + 3#32) (v.extractLsb' 24 8) s3 ∧ busWrite 2 pa v s = s2 ∧
     busWrite 1 pa v s = s1)

/-- The loads (R260 to R265), wherever the address translates: one translation at rs1 + imm for READ, then 1, 2 or 4
bytes over the bus, sign- or zero-extended into rd. Apart from rd and pc only the UART can change, by its own read side
effects. -/
def Obligations.LoadsComplete : Prop :=
  ∀ (rd rs1 : Reg) (imm pa : Word) (s : State), (translate (s.reg rs1 + imm) .read s).1 = some pa →
    let s1 := (translate (s.reg rs1 + imm) .read s).2
    (∃ t v, exec (.lb rd rs1 imm) s = .next t ∧ RetiresTo (busRead 1 pa s1).2 t rd v (s.pc + 4#32) ∧
      v.toInt = ((busRead 1 pa s1).1.setWidth 8).toInt) ∧
    (∃ t v, exec (.lh rd rs1 imm) s = .next t ∧ RetiresTo (busRead 2 pa s1).2 t rd v (s.pc + 4#32) ∧
      v.toInt = ((busRead 2 pa s1).1.setWidth 16).toInt) ∧
    (∃ t, exec (.lw rd rs1 imm) s = .next t ∧ RetiresTo (busRead 4 pa s1).2 t rd (busRead 4 pa s1).1 (s.pc + 4#32)) ∧
    (∃ t, exec (.lbu rd rs1 imm) s = .next t ∧ RetiresTo (busRead 1 pa s1).2 t rd (busRead 1 pa s1).1 (s.pc + 4#32)) ∧
    (∃ t, exec (.lhu rd rs1 imm) s = .next t ∧ RetiresTo (busRead 2 pa s1).2 t rd (busRead 2 pa s1).1 (s.pc + 4#32)) ∧
    (∀ n, (busRead n pa s1).2 = { s with uart := (busRead n pa s1).2.uart })

/-- The loads with translation off from bytes that are not the UART's (R71, R261 to R265): little-endian at any
alignment, and nothing but rd and pc changes. -/
def Obligations.PlainLoadsGiveBytes : Prop :=
  ∀ (rd rs1 : Reg) (imm : Word) (s : State), s.mmu.mode = .off →
    (∀ i, i < 4 → window s.cfg (s.reg rs1 + imm + BitVec.ofNat 32 i).toNat ≠ .uart) →
    let a := s.reg rs1 + imm
    (∃ v, Writes (.lb rd rs1 imm) s rd v ∧ v.toInt = (busPeek a s).toInt) ∧
    (∃ v, Writes (.lbu rd rs1 imm) s rd v ∧ v.toNat = (busPeek a s).toNat) ∧
    (∃ v, Writes (.lh rd rs1 imm) s rd v ∧ v.toInt = (busPeek (a + 1#32) s ++ busPeek a s).toInt) ∧
    (∃ v, Writes (.lhu rd rs1 imm) s rd v ∧ v.toNat = (busPeek (a + 1#32) s ++ busPeek a s).toNat) ∧
    Writes (.lw rd rs1 imm) s rd (busPeek (a + 3#32) s ++ busPeek (a + 2#32) s ++ busPeek (a + 1#32) s ++ busPeek a s)

/-- The stores (R260, R266 to R268), wherever the address translates: one translation at rs1 + imm for WRITE, then the
low 1, 2 or 4 bytes of rs2 over the bus; the frame is that of the stored bytes. No register changes. -/
def Obligations.StoresComplete : Prop :=
  ∀ (rs1 rs2 : Reg) (imm pa : Word) (s : State), (translate (s.reg rs1 + imm) .write s).1 = some pa →
    s.mem.wf = true → Sparse.wf 0#32 s.csrs = true →
    let s1 := (translate (s.reg rs1 + imm) .write s).2
    exec (.sb rs1 rs2 imm) s = .next { busWrite 1 pa (s.reg rs2) s1 with pc := s.pc + 4#32 } ∧
    exec (.sh rs1 rs2 imm) s = .next { busWrite 2 pa (s.reg rs2) s1 with pc := s.pc + 4#32 } ∧
    exec (.sw rs1 rs2 imm) s = .next { busWrite 4 pa (s.reg rs2) s1 with pc := s.pc + 4#32 } ∧
    s1 = { s with uart := s1.uart } ∧ (∀ n, n ≤ 4 → StoreFrame s1 (busWrite n pa (s.reg rs2) s1) n pa)

/-- The stores with translation off into RAM (20_memory.md R71, R84): exactly the stored bytes change, the low byte at
the lowest address, at any alignment. -/
def Obligations.PlainStoresChangeOnlyBytes : Prop :=
  ∀ (rs1 rs2 : Reg) (imm : Word) (s : State), s.mmu.mode = .off → s.mem.wf = true →
    let a := s.reg rs1 + imm
    let v := s.reg rs2
    (window s.cfg a.toNat = .ram → ∃ t, exec (.sb rs1 rs2 imm) s = .next t ∧
      t = { s with mem := t.mem, pc := s.pc + 4#32 } ∧ busPeek a t = v.extractLsb' 0 8 ∧
      ∀ x, x ≠ a → busPeek x t = busPeek x s) ∧
    (window s.cfg a.toNat = .ram → window s.cfg (a + 1#32).toNat = .ram → ∃ t, exec (.sh rs1 rs2 imm) s = .next t ∧
      t = { s with mem := t.mem, pc := s.pc + 4#32 } ∧ busPeek a t = v.extractLsb' 0 8 ∧
      busPeek (a + 1#32) t = v.extractLsb' 8 8 ∧ ∀ x, x ≠ a → x ≠ a + 1#32 → busPeek x t = busPeek x s) ∧
    (window s.cfg a.toNat = .ram → window s.cfg (a + 1#32).toNat = .ram → window s.cfg (a + 2#32).toNat = .ram →
      window s.cfg (a + 3#32).toNat = .ram → ∃ t, exec (.sw rs1 rs2 imm) s = .next t ∧
      t = { s with mem := t.mem, pc := s.pc + 4#32 } ∧ busPeek a t = v.extractLsb' 0 8 ∧
      busPeek (a + 1#32) t = v.extractLsb' 8 8 ∧ busPeek (a + 2#32) t = v.extractLsb' 16 8 ∧
      busPeek (a + 3#32) t = v.extractLsb' 24 8 ∧
      ∀ x, x ≠ a → x ≠ a + 1#32 → x ≠ a + 2#32 → x ≠ a + 3#32 → busPeek x t = busPeek x s)

/-- Where the translation of a data access fails, the instruction takes LoadPageFault (loads, LR.W) or StorePageFault
(stores, a succeeding SC.W, AMOs) with the virtual address as its value, and no byte moved: only the walk's own reads of
UART registers have had their effect (R260, 20_memory.md R74, R119, 44_atomics.md R300 to R302; that AMOs fault as stores
is decision D9). -/
def Obligations.DataPageFaultsTrap : Prop :=
  ∀ (rd rs1 rs2 : Reg) (aq rl : Bool) (imm : Word) (s : State),
    ((translate (s.reg rs1 + imm) .read s).1 = none →
      ∀ i ∈ [Instr.lb rd rs1 imm, .lh rd rs1 imm, .lw rd rs1 imm, .lbu rd rs1 imm, .lhu rd rs1 imm],
        exec i s = takeException .loadPageFault (s.reg rs1 + imm) (translate (s.reg rs1 + imm) .read s).2) ∧
    ((translate (s.reg rs1) .read s).1 = none →
      exec (.lrW rd rs1 aq rl) s = takeException .loadPageFault (s.reg rs1) (translate (s.reg rs1) .read s).2) ∧
    ((translate (s.reg rs1 + imm) .write s).1 = none →
      ∀ i ∈ [Instr.sb rs1 rs2 imm, .sh rs1 rs2 imm, .sw rs1 rs2 imm],
        exec i s = takeException .storePageFault (s.reg rs1 + imm) (translate (s.reg rs1 + imm) .write s).2) ∧
    ((translate (s.reg rs1) .write s).1 = none →
      (s.reservation = some (s.reg rs1) →
        exec (.scW rd rs1 rs2 aq rl) s = takeException .storePageFault (s.reg rs1) (translate (s.reg rs1) .write s).2) ∧
      ∀ i ∈ [Instr.amoswapW rd rs1 rs2 aq rl, .amoaddW rd rs1 rs2 aq rl, .amoxorW rd rs1 rs2 aq rl,
          .amoandW rd rs1 rs2 aq rl, .amoorW rd rs1 rs2 aq rl, .amominW rd rs1 rs2 aq rl, .amomaxW rd rs1 rs2 aq rl,
          .amominuW rd rs1 rs2 aq rl, .amomaxuW rd rs1 rs2 aq rl],
        exec i s = takeException .storePageFault (s.reg rs1) (translate (s.reg rs1) .write s).2) ∧
    (∀ (va : Word) (acc : Access), (translate va acc s).2 = { s with uart := (translate va acc s).2.uart })

/-- What was stored is loaded (R269, 20_memory.md R84), in RAM with translation off: SW then LW gives the word, SW then
LBU its byte, SH then LH the sign-extended halfword, at any alignment. -/
def Obligations.StoreThenLoadReturnsValue : Prop :=
  ∀ (rd rs1 rs2 : Reg) (imm imm' : Word) (s : State), s.mmu.mode = .off → s.mem.wf = true → rd ≠ 0#5 →
    (∀ i, i < 4 → window s.cfg (s.reg rs1 + imm + BitVec.ofNat 32 i).toNat = .ram) →
    (∃ t, exec (.sw rs1 rs2 imm) s = .next t ∧
      (∃ u, exec (.lw rd rs1 imm) t = .next u ∧ u.reg rd = s.reg rs2) ∧
      ∀ i, i < 4 → s.reg rs1 + imm' = s.reg rs1 + imm + BitVec.ofNat 32 i →
        ∃ u, exec (.lbu rd rs1 imm') t = .next u ∧ (u.reg rd).toNat = ((s.reg rs2).extractLsb' (8 * i) 8).toNat) ∧
    (∃ t, exec (.sh rs1 rs2 imm) s = .next t ∧
      ∃ u, exec (.lh rd rs1 imm) t = .next u ∧ (u.reg rd).toInt = ((s.reg rs2).extractLsb' 0 16).toInt)

/-! ### Multiply and divide (43_muldiv.md) -/

/-- MUL, MULH, MULHSU, MULHU (R281 to R284): the low word of the product, or the floor of the exact product over 2^32
with the operands read as the name says (for MULHSU the spec's "general knowledge"). -/
def Obligations.MultiplyResults : Prop :=
  ∀ (rd rs1 rs2 : Reg) (s : State),
    Writes (.mul rd rs1 rs2) s rd (s.reg rs1 * s.reg rs2) ∧
    (∃ v, Writes (.mulh rd rs1 rs2) s rd v ∧ v.toInt = (s.reg rs1).toInt * (s.reg rs2).toInt / 4294967296) ∧
    (∃ v, Writes (.mulhsu rd rs1 rs2) s rd v ∧ v.toInt = (s.reg rs1).toInt * (s.reg rs2).toNat / 4294967296) ∧
    (∃ v, Writes (.mulhu rd rs1 rs2) s rd v ∧ v.toNat = (s.reg rs1).toNat * (s.reg rs2).toNat / 4294967296)

/-- DIV, DIVU, REM, REMU (R285 to R289): the fixed results of a zero divisor and of the signed overflow, the quotient
toward zero and the remainder with the dividend's sign otherwise (the rounding is the spec's "general knowledge"), and
the identity of quotient and remainder modulo 2^32 in every case with b not 0. -/
def Obligations.DivideResults : Prop :=
  ∀ (rd rs1 rs2 : Reg) (s : State),
    let a := s.reg rs1
    let b := s.reg rs2
    ∃ q uq r ur, Writes (.div rd rs1 rs2) s rd q ∧ Writes (.divu rd rs1 rs2) s rd uq ∧ Writes (.rem rd rs1 rs2) s rd r ∧
      Writes (.remu rd rs1 rs2) s rd ur ∧
      (b = 0#32 → q = 0xFFFFFFFF#32 ∧ uq = 0xFFFFFFFF#32 ∧ r = a ∧ ur = a) ∧
      (a = 0x80000000#32 → b = 0xFFFFFFFF#32 → q = 0x80000000#32 ∧ uq = 0#32 ∧ r = 0#32 ∧ ur = 0x80000000#32) ∧
      (b ≠ 0#32 → uq.toNat = a.toNat / b.toNat ∧ ur.toNat = a.toNat % b.toNat ∧ uq * b + ur = a ∧ q * b + r = a) ∧
      (b ≠ 0#32 → ¬ (a = 0x80000000#32 ∧ b = 0xFFFFFFFF#32) →
        q.toInt = a.toInt.tdiv b.toInt ∧ r.toInt = a.toInt.tmod b.toInt ∧ |r.toInt| < |b.toInt|)

/-! ### Atomics (44_atomics.md) -/

/-- LR.W (R300): the word at rs1 into rd, the reservation on that virtual address (decision D10), nothing else but the
read side effects of a UART register. aq and rl do nothing. -/
def Obligations.LoadReservedReserves : Prop :=
  ∀ (rd rs1 : Reg) (aq rl : Bool) (pa : Word) (s : State), (translate (s.reg rs1) .read s).1 = some pa →
    let r := busRead 4 pa (translate (s.reg rs1) .read s).2
    (∃ t, exec (.lrW rd rs1 aq rl) s = .next t ∧
      RetiresTo { r.2 with reservation := some (s.reg rs1) } t rd r.1 (s.pc + 4#32)) ∧
    r.2 = { s with uart := r.2.uart }

/-- SC.W (R301): with the reservation on rs1 it stores rs2, clears the reservation and writes 0; otherwise it writes 1
and touches nothing, the reservation included, and cannot fault (decision D10). -/
def Obligations.StoreConditionalStoresOrFails : Prop :=
  ∀ (rd rs1 rs2 : Reg) (aq rl : Bool) (s : State),
    (s.reservation ≠ some (s.reg rs1) → Writes (.scW rd rs1 rs2 aq rl) s rd 1#32) ∧
    (∀ pa, s.reservation = some (s.reg rs1) → (translate (s.reg rs1) .write s).1 = some pa →
      s.mem.wf = true → Sparse.wf 0#32 s.csrs = true →
      let s1 := (translate (s.reg rs1) .write s).2
      (∃ t, exec (.scW rd rs1 rs2 aq rl) s = .next t ∧
        RetiresTo { busWrite 4 pa (s.reg rs2) s1 with reservation := none } t rd 0#32 (s.pc + 4#32)) ∧
      s1 = { s with uart := s1.uart } ∧ StoreFrame s1 (busWrite 4 pa (s.reg rs2) s1) 4 pa)

/-- The AMOs (R302 to R311): one translation for WRITE, the old word into rd, the operation's result stored at the same
physical address (decision D9); minimum and maximum compare signed or unsigned by name. -/
def Obligations.AmoResults : Prop :=
  ∀ (rd rs1 rs2 : Reg) (aq rl : Bool) (pa : Word) (s : State), (translate (s.reg rs1) .write s).1 = some pa →
    s.mem.wf = true → Sparse.wf 0#32 s.csrs = true →
    let r := busRead 4 pa (translate (s.reg rs1) .write s).2
    let old := r.1
    let src := s.reg rs2
    let done : Instr → Word → Prop := fun i new =>
      ∃ t, exec i s = .next t ∧ RetiresTo (busWrite 4 pa new r.2) t rd old (s.pc + 4#32)
    done (.amoswapW rd rs1 rs2 aq rl) src ∧ done (.amoaddW rd rs1 rs2 aq rl) (old + src) ∧
    done (.amoxorW rd rs1 rs2 aq rl) (old ^^^ src) ∧ done (.amoandW rd rs1 rs2 aq rl) (old &&& src) ∧
    done (.amoorW rd rs1 rs2 aq rl) (old ||| src) ∧
    done (.amominW rd rs1 rs2 aq rl) (if old.toInt < src.toInt then old else src) ∧
    done (.amomaxW rd rs1 rs2 aq rl) (if src.toInt < old.toInt then old else src) ∧
    done (.amominuW rd rs1 rs2 aq rl) (if old.toNat < src.toNat then old else src) ∧
    done (.amomaxuW rd rs1 rs2 aq rl) (if src.toNat < old.toNat then old else src) ∧
    r.2 = { s with uart := r.2.uart } ∧ (∀ new, StoreFrame r.2 (busWrite 4 pa new r.2) 4 pa)

/-- What the execution of one instruction does to the reservation (R312, R418): only LR.W sets it, and it is cleared only
by a succeeding SC.W and by an exception the instruction takes (when RESERVATION_CLEARED_ON_TRAP holds, decision D11). This
is about `exec` alone: an interrupt delivered at the end of the tick clears it too, which InterruptDeliveryOrMask states. -/
def Obligations.ReservationLife : Prop :=
  ∀ (i : Instr) (s t : State), exec i s = .next t → s.raised = false →
    t.reservation = s.reservation ∨
    (∃ rd rs1 aq rl, i = .lrW rd rs1 aq rl ∧ t.reservation = some (s.reg rs1)) ∨
    (∃ rd rs1 rs2 aq rl, i = .scW rd rs1 rs2 aq rl ∧ s.reservation = some (s.reg rs1) ∧ t.reservation = none) ∨
    (t.raised = true ∧ s.cfg.reservationClearedOnTrap = true ∧ t.reservation = none)

/-! ### CSRs (10_state.md, 45_csr.md) -/

/-- The six CSR instructions (R320 to R326, the check R35): rd gets the old value, the CSR the new one through the
write function, and with the source field 0 the set and clear forms write nothing; where the check fails the instruction
takes IllegalInstruction with its own word as value (decision D7), and neither CSR nor rd is written. That M reaches the
addresses with a[9:8] = 2 is the reading of log 21: R35's formula and R320's algorithm let it pass, R35's last sentence not. -/
def Obligations.CsrInstructionsCompleteOrTrap : Prop :=
  ∀ (rd rs1 : Reg) (u : BitVec 5) (csr : CsrAddr) (s : State),
    let mayRead : Prop := (csr.extractLsb' 8 2).toNat ≤ s.priv.code.toNat
    let mayWrite : Prop := mayRead ∧ csr.extractLsb' 10 2 ≠ 3#2
    let r := csrRead csr s
    let old := r.1
    let x := s.reg rs1
    let done : Instr → State → Prop := fun i base => ∃ t, exec i s = .next t ∧ RetiresTo base t rd old (s.pc + 4#32)
    let denied : Instr → Prop := fun i => exec i s = takeException .illegalInstruction (encode i) s
    (mayWrite → done (.csrrw rd rs1 csr) (csrWrite csr x r.2) ∧ done (.csrrwi rd u csr) (csrWrite csr (u.setWidth 32) r.2)) ∧
    (mayWrite → rs1 ≠ 0#5 → done (.csrrs rd rs1 csr) (csrWrite csr (old ||| x) r.2) ∧
      done (.csrrc rd rs1 csr) (csrWrite csr (old &&& ~~~x) r.2)) ∧
    (mayWrite → u ≠ 0#5 → done (.csrrsi rd u csr) (csrWrite csr (old ||| u.setWidth 32) r.2) ∧
      done (.csrrci rd u csr) (csrWrite csr (old &&& ~~~(u.setWidth 32)) r.2)) ∧
    (mayRead → done (.csrrs rd 0#5 csr) r.2 ∧ done (.csrrc rd 0#5 csr) r.2 ∧ done (.csrrsi rd 0#5 csr) r.2 ∧
      done (.csrrci rd 0#5 csr) r.2) ∧
    (¬ mayWrite → denied (.csrrw rd rs1 csr) ∧ denied (.csrrwi rd u csr) ∧
      (rs1 ≠ 0#5 → denied (.csrrs rd rs1 csr) ∧ denied (.csrrc rd rs1 csr)) ∧
      (u ≠ 0#5 → denied (.csrrsi rd u csr) ∧ denied (.csrrci rd u csr))) ∧
    (¬ mayRead → denied (.csrrs rd 0#5 csr) ∧ denied (.csrrc rd 0#5 csr) ∧ denied (.csrrsi rd 0#5 csr) ∧
      denied (.csrrci rd 0#5 csr))

/-- The CSR read and write functions, address by address (R48, R49; R37 to R47, R50): what a read returns and that it
changes nothing (0x0C3 is a draw of the model's free value, log 3), what every raw entry is after a write to any address,
and that a write changes nothing else: only satp's moves the MMU and only 0x0C1's tells the host. That the writes of mcycle
(decision D21), 0x0C0 and 0x0C2 (decision D22) are dropped is the spec's own choice. How the host is told is the model's
choice (log 5): one more entry of `host.events`, holding the value written and the listed bytes of the TX buffer. -/
def Obligations.CsrFileReadsAndWrites : Prop :=
  ∀ (s : State) (v : Word), Sparse.wf 0#32 s.csrs = true →
    let special : List CsrAddr := [0x100#12, 0x104#12, 0x144#12, 0x180#12, 0xC00#12, 0xB00#12, 0xC01#12, 0x0C0#12, 0x0C2#12, 0x0C3#12]
    let after : CsrAddr → Word → CsrAddr → Word := fun a w b => (csrWrite a w s).csr b
    ((csrRead 0x100#12 s).1 = s.csr 0x300#12 &&& 0x000de162#32 ∧ (csrRead 0x104#12 s).1 = s.csr 0x304#12 &&& 0x222#32 ∧
      (csrRead 0x144#12 s).1 = s.csr 0x344#12 &&& 0x222#32 ∧
      (csrRead 0x180#12 s).1 = (if s.mmu.mode = .sv32 then 0x80000000#32 else 0#32) ||| s.mmu.ppn.setWidth 32 ∧
      (csrRead 0xC00#12 s).1 = s.clock ∧ (csrRead 0xB00#12 s).1 = s.clock ∧
      (csrRead 0xC01#12 s).1 = s.clint.mtime.extractLsb' 0 32 ∧ (csrRead 0x0C0#12 s).1 = 0x11000000#32 ∧
      (csrRead 0x0C2#12 s).1 = 0x11001000#32 ∧ (csrRead 0x0C3#12 s).1 = Config.netRxReady s.host.draws) ∧
    (∀ a, a ≠ 0x0C3#12 → (csrRead a s).2 = s) ∧
    (csrRead 0x0C3#12 s).2 = { s with host := { s.host with draws := s.host.draws + 1 } } ∧
    (∀ a, a ∉ special → (csrRead a s).1 = s.csr a) ∧
    (∀ b, after 0x100#12 v b = if b = 0x300#12 then (s.csr 0x300#12 &&& ~~~0x000de162#32) ||| (v &&& 0x000de162#32) else s.csr b) ∧
    (∀ b, after 0x104#12 v b = if b = 0x304#12 then (s.csr 0x304#12 &&& ~~~0x222#32) ||| (v &&& 0x222#32) else s.csr b) ∧
    (∀ b, after 0x144#12 v b = if b = 0x344#12 then (s.csr 0x344#12 &&& ~~~0x222#32) ||| (v &&& 0x222#32) else s.csr b) ∧
    (∀ b, after 0x303#12 v b = if b = 0x303#12 then v &&& 0x666#32 else s.csr b) ∧
    (csrWrite 0x180#12 v s = { s with mmu := { mode := if v.getLsbD 31 then .sv32 else .off, ppn := v.extractLsb' 0 22 } }) ∧
    (∀ a ∈ [0xB00#12, 0x0C0#12, 0x0C2#12], csrWrite a v s = s) ∧
    (∀ a, a ∉ [0x100#12, 0x104#12, 0x144#12, 0x303#12, 0x180#12, 0xB00#12, 0x0C0#12, 0x0C2#12] →
      ∀ b, after a v b = if b = a then v else s.csr b) ∧
    (∀ a, a ≠ 0x180#12 → a ≠ 0x0C1#12 → csrWrite a v s = { s with csrs := (csrWrite a v s).csrs }) ∧
    (csrWrite 0x0C1#12 v s =
      { s with
        csrs := (csrWrite 0x0C1#12 v s).csrs,
        host := { s.host with events := s.host.events ++ [.netSend v (txBufferCells s.mem)] } })

/-- sstatus, sie and sip are views (R38, R40): a read shows the masked bits of mstatus, mie and mip, a CSRRW through the
view changes those bits there and no other raw entry, the view's own entry included. -/
def Obligations.ViewsShowMaskedBits : Prop :=
  ∀ (rd rs1 : Reg) (s : State), Sparse.wf 0#32 s.csrs = true → s.priv ≠ .u →
    ∀ e ∈ [(0x100#12, 0x300#12, 0x000de162#32), (0x104#12, 0x304#12, 0x222#32), (0x144#12, 0x344#12, 0x222#32)],
      ∃ t, exec (.csrrw rd rs1 e.1) s = .next t ∧
        (∀ r, t.reg r = if r = rd ∧ rd ≠ 0#5 then s.csr e.2.1 &&& e.2.2 else s.reg r) ∧
        t.csr e.2.1 = (s.csr e.2.1 &&& ~~~e.2.2) ||| (s.reg rs1 &&& e.2.2) ∧
        (∀ b, b ≠ e.2.1 → t.csr b = s.csr b) ∧
        t = { s with regs := t.regs, pc := s.pc + 4#32, csrs := t.csrs }

/-- satp and the counters (R45, R46, R327, 70_reset_and_hazards.md R504): a value written to satp is read back as
v & 0x803FFFFF and goes to the MMU; cycle is read in every mode and mcycle in M as the clock, time as mtime's low word,
each without a change; writing cycle is illegal in every mode and writing mcycle changes rd and pc only (decision D21). -/
def Obligations.SatpAndCountersRead : Prop :=
  ∀ (rd rs1 : Reg) (s : State),
    (s.priv ≠ .u → rd ≠ 0#5 → ∃ t u, exec (.csrrw rd rs1 0x180#12) s = .next t ∧
      exec (.csrrs rd 0#5 0x180#12) t = .next u ∧ u.reg rd = s.reg rs1 &&& 0x803FFFFF#32 ∧
      (t.mmu.mode = .sv32 ↔ (s.reg rs1).getLsbD 31 = true) ∧ t.mmu.ppn = (s.reg rs1).extractLsb' 0 22) ∧
    Writes (.csrrs rd 0#5 0xC00#12) s rd s.clock ∧
    Writes (.csrrs rd 0#5 0xC01#12) s rd (s.clint.mtime.extractLsb' 0 32) ∧
    (s.priv = .m → Writes (.csrrs rd 0#5 0xB00#12) s rd s.clock ∧ Writes (.csrrw rd rs1 0xB00#12) s rd s.clock) ∧
    exec (.csrrw rd rs1 0xC00#12) s = takeException .illegalInstruction (encode (.csrrw rd rs1 0xC00#12)) s ∧
    exec (.csrrw rd rs1 0xC01#12) s = takeException .illegalInstruction (encode (.csrrw rd rs1 0xC01#12)) s

/-- U-mode code cannot change the machine's or the supervisor's CSRs (R35, 60_exceptions.md R422): an instruction run in
U that takes no exception leaves every CSR above U (mip excepted, which the CLINT's registers drive), the MMU's copy of
satp and the mode as they are, when trap returns are checked (XRET_PRIV_CHECK, decision D12). -/
def Obligations.UserKeepsPrivilegedState : Prop :=
  ∀ (i : Instr) (s t : State), exec i s = .next t → Inv s → s.priv = .u → t.raised = false → s.cfg.xretPrivCheck = true →
    (∀ a : CsrAddr, a.extractLsb' 8 2 ≠ 0#2 → a ≠ csrMip → t.csr a = s.csr a) ∧ t.mmu = s.mmu ∧ t.priv = .u

/-! ### System instructions (46_system.md) -/

/-- FENCE, FENCE.I, SFENCE.VMA and WFI change nothing but the pc, in every mode (R340 to R343, decision D13). -/
def Obligations.NoOpsAdvanceOnly : Prop :=
  ∀ (fm pred succ : BitVec 4) (imm : BitVec 12) (rs1 rs2 rd : Reg) (s : State),
    ∀ i ∈ [Instr.fence fm pred succ rs1 rd, .fenceI imm rs1 rd, .sfenceVma rs1 rs2, .wfi],
      exec i s = .next { s with pc := s.pc + 4#32 }

/-- ECALL (R344): unless the gated exit is taken it takes the environment call of the mode, code 8, 9 or 11, with value 0
(decision D7) and its own pc saved. With the exit enabled and x17 = 93 the run ends instead (decision D29): the mark
`exited` gets x10 >> 1, nothing else moves, the tick's device and trap steps do not run, and a later step does nothing. -/
def Obligations.EcallTrapsOrEndsRun : Prop :=
  (∀ s : State, Sparse.wf 0#32 s.csrs = true → ¬ (s.cfg.ecallExitEnabled = true ∧ s.reg 17#5 = 93#32) →
    TakesException .ecall s (match s.priv with | .u => 8 | .s => 9 | .m => 11) 0#32) ∧
  (∀ s : State, s.cfg.ecallExitEnabled = true → s.reg 17#5 = 93#32 →
    exec .ecall s = .next { s with exited := some (s.reg 10#5 >>> 1) } ∧
    endTick (exec .ecall s) = .next { s with exited := some (s.reg 10#5 >>> 1) }) ∧
  (∀ (s : State) (v : Word), s.exited = some v → step s = .fault .runEnded)

/-- EBREAK takes Breakpoint, code 3, with its pc as value and as saved pc, in every mode (R345). -/
def Obligations.EbreakTraps : Prop :=
  ∀ s : State, Sparse.wf 0#32 s.csrs = true → TakesException .ebreak s 3 s.pc

/-- MRET (R346): with MPP holding a mode it restores MIE from MPIE, sets MPIE, clears MPP, clears MPRV when returning
below M, and goes to mepc in that mode; nothing else changes. Outside M, under XRET_PRIV_CHECK (decision D12), it takes
IllegalInstruction with its word; with MPP = 2 it is refused (decision D14). -/
def Obligations.MretReturns : Prop :=
  ∀ s : State, Sparse.wf 0#32 s.csrs = true →
    let ms := s.csr csrMstatus
    ((s.cfg.xretPrivCheck = true → s.priv = .m) → ∀ prev : Priv, ms.extractLsb' 11 2 = prev.code →
      ∃ t, exec .mret s = .next t ∧ t.priv = prev ∧ t.pc = s.csr csrMepc ∧
        (t.csr csrMstatus).getLsbD 3 = ms.getLsbD 7 ∧ (t.csr csrMstatus).getLsbD 7 = true ∧
        (t.csr csrMstatus).extractLsb' 11 2 = 0#2 ∧
        (t.csr csrMstatus).getLsbD 17 = (ms.getLsbD 17 && decide (prev = .m)) ∧
        (∀ i, i ∉ [3, 7, 11, 12, 17] → (t.csr csrMstatus).getLsbD i = ms.getLsbD i) ∧
        (∀ a, a ≠ csrMstatus → t.csr a = s.csr a) ∧ t = { s with csrs := t.csrs, priv := prev, pc := s.csr csrMepc }) ∧
    (s.cfg.xretPrivCheck = true → s.priv ≠ .m → exec .mret s = takeException .illegalInstruction 0x30200073#32 s) ∧
    ((s.cfg.xretPrivCheck = true → s.priv = .m) → ms.extractLsb' 11 2 = 2#2 → exec .mret s = .refused .mretToReservedMode)

/-- SRET (R347): it restores SIE from SPIE, sets SPIE, clears SPP and MPRV, and goes to sepc in the mode SPP names;
nothing else changes. In U, under XRET_PRIV_CHECK (decision D12), it takes IllegalInstruction with its word. -/
def Obligations.SretReturns : Prop :=
  ∀ s : State, Sparse.wf 0#32 s.csrs = true →
    let ms := s.csr csrMstatus
    ((s.cfg.xretPrivCheck = true → s.priv ≠ .u) →
      ∃ t, exec .sret s = .next t ∧ t.priv = (if ms.getLsbD 8 then .s else .u) ∧ t.pc = s.csr csrSepc ∧
        (t.csr csrMstatus).getLsbD 1 = ms.getLsbD 5 ∧ (t.csr csrMstatus).getLsbD 5 = true ∧
        (t.csr csrMstatus).getLsbD 8 = false ∧ (t.csr csrMstatus).getLsbD 17 = false ∧
        (∀ i, i ∉ [1, 5, 8, 17] → (t.csr csrMstatus).getLsbD i = ms.getLsbD i) ∧
        (∀ a, a ≠ csrMstatus → t.csr a = s.csr a) ∧ t = { s with csrs := t.csrs, priv := t.priv, pc := s.csr csrSepc }) ∧
    (s.cfg.xretPrivCheck = true → s.priv = .u → exec .sret s = takeException .illegalInstruction 0x10200073#32 s)

/-! ### Traps and interrupts (60_exceptions.md) -/

/-- Taking an exception (R400, R403, R411, R414 to R416, R418): it is delivered to M, or to S when either delegation
register has its code's bit, whatever the mode; a delegated one that sedeleg or sideleg would demote is refused (decision
D15). Saved are the instruction's pc, the code and the value; the codes are those of R400 ("general knowledge"). -/
def Obligations.ExceptionEntrySaves : Prop :=
  (∀ (e : Exc) (tval : Word) (s : State), Sparse.wf 0#32 s.csrs = true →
    (GoesToM s e.code → ∃ t, takeException e tval s = .next t ∧ t.raised = true ∧
      EntersM s t e.code (BitVec.ofNat 32 e.code) tval s.pc) ∧
    (Delegated s e.code → ¬ Demoted s e.code → ∃ t, takeException e tval s = .next t ∧ t.raised = true ∧
      EntersS s t e.code (BitVec.ofNat 32 e.code) tval s.pc) ∧
    (Delegated s e.code → Demoted s e.code → takeException e tval s = .refused .trapToUser)) ∧
  [Exc.instructionAddressMisaligned, .illegalInstruction, .breakpoint, .environmentCallFromUMode, .environmentCallFromSMode,
    .environmentCallFromMMode, .instructionPageFault, .loadPageFault, .storePageFault].map Exc.code
    = [0, 2, 3, 8, 9, 11, 12, 13, 15]

/-- The interrupt candidate (R410, R413) is the first of MEI, MSI, MTI, SEI, SSI, STI that is both pending and enabled;
there is none exactly when no one of the six is. -/
def Obligations.InterruptSelectionOrder : Prop :=
  ∀ s : State,
    let mirq := s.csr csrMip &&& s.csr csrMie
    (interruptCandidate s = some 11 ↔ mirq.getLsbD 11 = true) ∧
    (interruptCandidate s = some 3 ↔ mirq.getLsbD 3 = true ∧ mirq.getLsbD 11 = false) ∧
    (interruptCandidate s = some 7 ↔ mirq.getLsbD 7 = true ∧ mirq.getLsbD 11 = false ∧ mirq.getLsbD 3 = false) ∧
    (interruptCandidate s = some 9 ↔ mirq.getLsbD 9 = true ∧ mirq.getLsbD 11 = false ∧ mirq.getLsbD 3 = false ∧
      mirq.getLsbD 7 = false) ∧
    (interruptCandidate s = some 1 ↔ mirq.getLsbD 1 = true ∧ mirq.getLsbD 11 = false ∧ mirq.getLsbD 3 = false ∧
      mirq.getLsbD 7 = false ∧ mirq.getLsbD 9 = false) ∧
    (interruptCandidate s = some 5 ↔ mirq.getLsbD 5 = true ∧ mirq.getLsbD 11 = false ∧ mirq.getLsbD 3 = false ∧
      mirq.getLsbD 7 = false ∧ mirq.getLsbD 9 = false ∧ mirq.getLsbD 1 = false) ∧
    (interruptCandidate s = none ↔ ∀ p ∈ [11, 3, 7, 9, 1, 5], mirq.getLsbD p = false) ∧
    (∀ p, interruptCandidate s = some p → p ∈ [11, 3, 7, 9, 1, 5])

/-- The end of a tick (R411 to R418): an instruction that took an exception ends with the devices' step and no interrupt;
otherwise the candidate is masked when its target is below the mode, or equal to it with the enable bit clear, and is
delivered with code and high bit in the cause, 0 as value (decision D7) and the next pc saved. Software and external
interrupts lose their pending bit then, timer interrupts keep it. A candidate whose target would be U is refused (decision
D15); that this comes before masking, whatever the mode and the enable bits, is the model's choice, which the spec does not
state (log 11). -/
def Obligations.InterruptDeliveryOrMask : Prop :=
  (∀ s : State, s.exited = none → s.raised = true → finishTick s = .next { deviceTick s with raised := false }) ∧
  (∀ s : State, s.exited = none → s.raised = false → finishTick s = resolveInterrupt (deviceTick s)) ∧
  (∀ s : State, interruptCandidate s = none → resolveInterrupt s = .next s) ∧
  (∀ (s : State) (p : Nat), Sparse.wf 0#32 s.csrs = true → interruptCandidate s = some p →
    let cause : Word := 0x80000000#32 ||| BitVec.ofNat 32 p
    let cleared : State → State := fun u => if p ∈ [1, 3, 9, 11] then u.setMip p false else u
    (GoesToM s p → s.priv = .m → (s.csr csrMstatus).getLsbD 3 = false → resolveInterrupt s = .next s) ∧
    (GoesToM s p → ¬ (s.priv = .m ∧ (s.csr csrMstatus).getLsbD 3 = false) →
      ∃ u, EntersM s u p cause 0#32 s.pc ∧ resolveInterrupt s = .next (cleared u)) ∧
    (Delegated s p → ¬ Demoted s p → s.priv = .m ∨ (s.priv = .s ∧ (s.csr csrMstatus).getLsbD 1 = false) →
      resolveInterrupt s = .next s) ∧
    (Delegated s p → ¬ Demoted s p → s.priv = .u ∨ (s.priv = .s ∧ (s.csr csrMstatus).getLsbD 1 = true) →
      ∃ u, EntersS s u p cause 0#32 s.pc ∧ resolveInterrupt s = .next (cleared u)) ∧
    (Delegated s p → Demoted s p → resolveInterrupt s = .refused .trapToUser))

/-! ### The CLINT (60_exceptions.md R430 to R433) -/

/-- The CLINT's part of a tick (R430, R431): mtime goes on by one modulo 2^64, MTIP is set when it has then reached
mtimecmp and MSIP when msip is set; neither is cleared and no other bit changes. -/
def Obligations.ClintTickSetsBits : Prop :=
  ∀ s : State, Sparse.wf 0#32 s.csrs = true →
    let t := clintTick s
    t.clint.mtime = s.clint.mtime + 1#64 ∧
    (t.csr csrMip).getLsbD 7 =
      ((s.csr csrMip).getLsbD 7 || decide (s.clint.mtimecmp.toNat ≤ (s.clint.mtime.toNat + 1) % 18446744073709551616)) ∧
    (t.csr csrMip).getLsbD 3 = ((s.csr csrMip).getLsbD 3 || s.clint.msip) ∧
    (∀ i, i ≠ 7 → i ≠ 3 → (t.csr csrMip).getLsbD i = (s.csr csrMip).getLsbD i) ∧
    (∀ a, a ≠ csrMip → t.csr a = s.csr a) ∧
    t = { s with csrs := t.csrs, clint := { s.clint with mtime := t.clint.mtime } }

/-- The CLINT's bytes on the bus (R86, R432, R433): msip in bit 0 of the first byte, mtimecmp and mtime low byte first;
reads change nothing. A write to msip moves MSIP with it (decision D18), one to a byte of mtimecmp clears MTIP and STIP,
one to a byte of mtime changes that byte (decision D20). -/
def Obligations.ClintBytesOnBus : Prop :=
  ∀ (s : State) (b : Byte), Sparse.wf 0#32 s.csrs = true →
    (busPeek 0x02000000#32 s = if s.clint.msip then 1#8 else 0#8) ∧
    (∀ i ∈ [1, 2, 3], busPeek (0x02000000#32 + BitVec.ofNat 32 i) s = 0#8 ∧
      busWriteByte (0x02000000#32 + BitVec.ofNat 32 i) b s = s) ∧
    (∀ i, i < 8 → busPeek (0x02004000#32 + BitVec.ofNat 32 i) s = s.clint.mtimecmp.extractLsb' (8 * i) 8 ∧
      busPeek (0x0200BFF8#32 + BitVec.ofNat 32 i) s = s.clint.mtime.extractLsb' (8 * i) 8) ∧
    (∀ a : Word, window s.cfg a.toNat = .clint → busReadEffect a s = s) ∧
    (let t := busWriteByte 0x02000000#32 b s
     t.clint = { s.clint with msip := b.getLsbD 0 } ∧ (t.csr csrMip).getLsbD 3 = b.getLsbD 0 ∧
     (∀ j, j ≠ 3 → (t.csr csrMip).getLsbD j = (s.csr csrMip).getLsbD j) ∧ (∀ a, a ≠ csrMip → t.csr a = s.csr a) ∧
     t = { s with clint := t.clint, csrs := t.csrs }) ∧
    (∀ i, i < 8 → let t := busWriteByte (0x02004000#32 + BitVec.ofNat 32 i) b s
     (∀ j, j < 8 → t.clint.mtimecmp.extractLsb' (8 * j) 8 = if j = i then b else s.clint.mtimecmp.extractLsb' (8 * j) 8) ∧
     t.clint = { s.clint with mtimecmp := t.clint.mtimecmp } ∧
     (t.csr csrMip).getLsbD 7 = false ∧ (t.csr csrMip).getLsbD 5 = false ∧
     (∀ j, j ≠ 7 → j ≠ 5 → (t.csr csrMip).getLsbD j = (s.csr csrMip).getLsbD j) ∧
     (∀ a, a ≠ csrMip → t.csr a = s.csr a) ∧ t = { s with clint := t.clint, csrs := t.csrs }) ∧
    (∀ i, i < 8 → let t := busWriteByte (0x0200BFF8#32 + BitVec.ofNat 32 i) b s
     (∀ j, j < 8 → t.clint.mtime.extractLsb' (8 * j) 8 = if j = i then b else s.clint.mtime.extractLsb' (8 * j) 8) ∧
     t = { s with clint := { s.clint with mtime := t.clint.mtime } })

/-! ### The devices and the memory windows (20_memory.md) -/

/-- The UART's registers on the bus (R88 to R91, decision D23): what a read of each offset returns and does, and what a
write does; DLAB hides offsets 0 and 1, offset 6 reads 0. -/
def Obligations.UartBytesOnBus : Prop :=
  ∀ (s : State) (b : Byte),
    let at_ : Nat → Word := fun o => 0x10000000#32 + BitVec.ofNat 32 o
    let u := s.uart
    let put : Nat → Uart := fun o => (busWriteByte (at_ o) b s).uart
    (∀ o, o < 8 → busReadEffect (at_ o) s = { s with uart := (busReadEffect (at_ o) s).uart } ∧
      busWriteByte (at_ o) b s = { s with uart := put o }) ∧
    (u.lcr.getLsbD 7 = false → busPeek (at_ 0) s = u.rbr ∧ busPeek (at_ 1) s = u.ier ∧
      (busReadEffect (at_ 0) s).uart = { u with rbr := 0#8, lsr := u.lsr &&& 0xFE#8, rxIp := false } ∧
      put 0 = { u with thr := b, lsr := u.lsr &&& 0xDF#8, threIp := false } ∧ put 1 = { u with ier := b }) ∧
    (u.lcr.getLsbD 7 = true → busPeek (at_ 0) s = 0#8 ∧ busPeek (at_ 1) s = 0#8 ∧ (busReadEffect (at_ 0) s).uart = u ∧
      put 0 = u ∧ put 1 = u) ∧
    (busPeek (at_ 2) s = if u.rxIp then 4#8 else if u.threIp then 2#8 else 7#8) ∧
    (busReadEffect (at_ 2) s).uart = (if u.rxIp = false ∧ u.threIp = true then { u with threIp := false } else u) ∧
    busPeek (at_ 3) s = u.lcr ∧ busPeek (at_ 4) s = u.mcr ∧ busPeek (at_ 5) s = u.lsr ∧ busPeek (at_ 6) s = 0#8 ∧
    busPeek (at_ 7) s = u.scr ∧ (∀ o ∈ [1, 3, 4, 5, 6, 7], (busReadEffect (at_ o) s).uart = u) ∧
    put 3 = { u with lcr := b } ∧ put 4 = { u with mcr := b } ∧ put 7 = { u with scr := b } ∧ (∀ o ∈ [2, 5, 6], put o = u)

/-- The UART in a tick (R93, R94): a byte other than 0 in THR goes out, as a host event, in a tick whose clock has none
of the bits 1, 2 and 4 (decision D24), and leaves THR 0 and LSR.THRE set; at a multiple of 0x38400 with RBR empty a byte
of the host, a free value (log 3), comes in; each sets its interrupt flag only when enabled. -/
def Obligations.UartTickTransfers : Prop :=
  ∀ s : State,
    (s.clock.getLsbD 1 = false → s.clock.getLsbD 2 = false → s.clock.getLsbD 4 = false → s.uart.thr ≠ 0#8 →
      uartTransmit s = { s with uart := { s.uart with thr := 0#8, lsr := s.uart.lsr ||| 0x20#8, threIp := s.uart.threIp || s.uart.ier.getLsbD 1 }, host := { s.host with events := s.host.events ++ [.uartOut s.uart.thr] } }) ∧
    (s.clock.getLsbD 1 = true ∨ s.clock.getLsbD 2 = true ∨ s.clock.getLsbD 4 = true ∨ s.uart.thr = 0#8 → uartTransmit s = s) ∧
    (s.clock.toNat % 230400 = 0 → s.uart.rbr = 0#8 →
      (uartReceive s).host = { s.host with draws := s.host.draws + 1 } ∧
      (∀ b, Config.uartIn s.host.draws = some b →
        (uartReceive s).uart = { s.uart with rbr := b, lsr := s.uart.lsr ||| 1#8, rxIp := s.uart.rxIp || s.uart.ier.getLsbD 0 }) ∧
      (Config.uartIn s.host.draws = none → (uartReceive s).uart = s.uart) ∧
      uartReceive s = { s with uart := (uartReceive s).uart, host := (uartReceive s).host }) ∧
    (s.clock.toNat % 230400 ≠ 0 ∨ s.uart.rbr ≠ 0#8 → uartReceive s = s)

/-- The UART's interrupt line (R95): last of the device steps of a tick, MIP.SEIP is set while a flag is set; the UART
never clears it, the delivery of that interrupt does (60_exceptions.md R417). The order of the device steps is that of
70_reset_and_hazards.md R501, in which the order of the UART's own steps is the spec's choice (decisions D24, D25). -/
def Obligations.UartInterruptSetsSeip : Prop :=
  ∀ s : State, Sparse.wf 0#32 s.csrs = true →
    let t := uartIrq s
    (t.csr csrMip).getLsbD 9 = ((s.csr csrMip).getLsbD 9 || (s.uart.threIp || s.uart.rxIp)) ∧
    (∀ i, i ≠ 9 → (t.csr csrMip).getLsbD i = (s.csr csrMip).getLsbD i) ∧
    (∀ a, a ≠ csrMip → t.csr a = s.csr a) ∧ t = { s with csrs := t.csrs } ∧
    deviceTick s = uartIrq (uartReceive (uartTransmit (clintTick s))) ∧
    (∀ target, ((deliverInterrupt target 9 s).csr csrMip).getLsbD 9 = false)

/-- The RTC (R87, R96, R97, decision D26): its registers are read low byte first, the rest of the window reads 0; writing
0x40 to 0x7F8 snapshots the host's wall clock, a free value (log 3, 15), each number as two BCD digits in its byte, tens in
the high half, and changes nothing else but the model's count of draws; every other write is dropped. -/
def Obligations.RtcReadsAndSnapshot : Prop :=
  ∀ (s : State) (b : Byte),
    let shows : Byte → Nat → Prop := fun d n => d.toNat = 16 * (n / 10) + n % 10
    let w := Config.wallClock s.host.draws
    let t := busWriteByte 0x030007F8#32 0x40#8 s
    let at_ : Nat → Word := fun o => 0x03000000#32 + BitVec.ofNat 32 o
    (∀ i, i < 4 → busPeek (at_ (0x7F8 + i)) s = s.rtc.rtc0.extractLsb' (8 * i) 8 ∧
      busPeek (at_ (0x7FC + i)) s = s.rtc.rtc1.extractLsb' (8 * i) 8) ∧
    (∀ o, o < 0x7F8 → busPeek (at_ o) s = 0#8) ∧
    (∀ a : Word, 0x03000000 ≤ a.toNat → a.toNat ≤ 0x030007FF → busReadEffect a s = s) ∧
    t = { s with rtc := t.rtc, host := { s.host with draws := s.host.draws + 1 } } ∧
    shows (busPeek (at_ 0x7F8) t) w.century ∧ shows (busPeek (at_ 0x7F9) t) w.seconds ∧
    shows (busPeek (at_ 0x7FA) t) w.minutes ∧ shows (busPeek (at_ 0x7FB) t) w.hours ∧
    shows (busPeek (at_ 0x7FC) t) w.weekday ∧ shows (busPeek (at_ 0x7FD) t) (w.day0 + 1) ∧
    shows (busPeek (at_ 0x7FE) t) (w.month0 + 1) ∧ shows (busPeek (at_ 0x7FF) t) w.year ∧
    (∀ o, o < 0x800 → ¬ (o = 0x7F8 ∧ b = 0x40#8) → busWriteByte (at_ o) b s = s)

/-- The plain windows (R80, R81, R84, R85, R100, R101): a read in RAM, a network buffer or the MTD window, writable or not,
returns the byte the storage holds there, and a write changes that byte and nothing but memory; the MTD window takes writes
only when MTD_WRITABLE holds and drops them otherwise (decision D3); the DTB window shows its image, 0 beyond it, and drops writes (decision D27). Every address outside the ten ranges of R80 is
unmapped, reads 0 and drops writes, the gaps between the CLINT's ranges among them (decision D36). Reads outside the UART's
range change nothing and no access faults (decision D8). That the network buffers are plain storage for the guest is
decision D28. -/
def Obligations.WindowsHoldOrDropBytes : Prop :=
  ∀ (s : State) (a : Word) (b : Byte), s.mem.wf = true →
    let n := a.toNat
    let stored : Prop :=
      busWriteByte a b s = { s with mem := (busWriteByte a b s).mem } ∧
      ∀ x : Word, busPeek x (busWriteByte a b s) = if x = a then b else busPeek x s
    let outside : Prop :=
      ¬ (0x00001020 ≤ n ∧ n ≤ 0x00001FFF) ∧ ¬ (0x02000000 ≤ n ∧ n ≤ 0x02000003) ∧ ¬ (0x02004000 ≤ n ∧ n ≤ 0x02004007) ∧
      ¬ (0x0200BFF8 ≤ n ∧ n ≤ 0x0200BFFF) ∧ ¬ (0x03000000 ≤ n ∧ n ≤ 0x030007FF) ∧ ¬ (0x10000000 ≤ n ∧ n ≤ 0x10000007) ∧
      ¬ (0x11000000 ≤ n ∧ n ≤ 0x11000FFF) ∧ ¬ (0x11001000 ≤ n ∧ n ≤ 0x11001FFF) ∧
      ¬ (0x40000000 ≤ n ∧ n < 0x40000000 + s.cfg.mtdSize) ∧ ¬ (0x80000000 ≤ n ∧ n < 0x80000000 + s.cfg.memSize)
    let readsStorage : Prop := busPeek a s = s.mem.read n
    (¬ (0x10000000 ≤ n ∧ n ≤ 0x10000007) → busReadEffect a s = s) ∧
    (0x80000000 ≤ a.toNat → a.toNat < 0x80000000 + s.cfg.memSize → readsStorage ∧ stored) ∧
    (0x11000000 ≤ a.toNat → a.toNat ≤ 0x11001FFF → readsStorage ∧ stored) ∧
    (0x40000000 ≤ a.toNat → a.toNat < 0x40000000 + s.cfg.mtdSize → a.toNat < 0x80000000 →
      readsStorage ∧ (s.cfg.mtdWritable = true → stored) ∧ (s.cfg.mtdWritable = false → busWriteByte a b s = s)) ∧
    (∀ o, o ≤ 0xFDF → busPeek (0x00001020#32 + BitVec.ofNat 32 o) s = s.cfg.dtbImage.getD o 0#8 ∧
      busWriteByte (0x00001020#32 + BitVec.ofNat 32 o) b s = s) ∧
    (outside ↔ window s.cfg n = .unmapped) ∧
    (outside → busPeek a s = 0#8 ∧ busWriteByte a b s = s) ∧
    (s.cfg.memSize ≤ 0x80000000 → s.cfg.mtdSize ≤ 0x40000000 → 0x80000000 + s.cfg.memSize ≤ a.toNat →
      window s.cfg a.toNat = .unmapped) ∧
    (a.toNat < 0x1020 → window s.cfg a.toNat = .unmapped)

/-! ### Sv32 translation (20_memory.md R110 to R119) -/

/-- Where translation does nothing (R110, R111): with the MMU off, for M's fetches, and for data whose effective
privilege, MPP under MPRV, is M. That this holds in S and U too, with MPRV = 1 and MPP = M, is the model's choice (log 22):
R348 and R422 say that S and U translate. -/
def Obligations.TranslationBypassIsIdentity : Prop :=
  ∀ (va : Word) (acc : Access) (s : State),
    let ms := s.csr csrMstatus
    (s.mmu.mode = .off → translate va acc s = (some va, s)) ∧
    (s.priv = .m → translate va .fetch s = (some va, s)) ∧
    (acc ≠ .fetch → s.priv = .m → ms.getLsbD 17 = false → translate va acc s = (some va, s)) ∧
    (acc ≠ .fetch → ms.getLsbD 17 = true → ms.extractLsb' 11 2 = 3#2 → translate va acc s = (some va, s)) ∧
    (acc ≠ .fetch → s.mmu.mode = .sv32 → ms.getLsbD 17 = true → ms.extractLsb' 11 2 = 2#2 → (translate va acc s).1 = none)

/-- The Sv32 walk (R110 to R118; field positions are the spec's "general knowledge", the truncation to 32 bits decision
D30): an address translates to `pa` exactly when the PTE at the root's entry for VPN[1] is a valid aligned superpage leaf
that permits the access, or it points to a table whose entry for VPN[0] is a valid leaf that does; `pa` is then put
together from that leaf and the address. In every other case the access faults. -/
def Obligations.TranslationWalkIsExact : Prop :=
  ∀ (va pa : Word) (acc : Access) (s : State), s.mmu.mode = .sv32 → ¬ (s.priv = .m ∧ acc = .fetch) →
    let ms := s.csr csrMstatus
    let eff : BitVec 2 := if ms.getLsbD 17 = true ∧ acc ≠ .fetch then ms.extractLsb' 11 2 else s.priv.code
    let p1 := busRead 4 (s.mmu.ppn.setWidth 32 * 4096#32 + (va.extractLsb' 22 10).setWidth 32 * 4#32) s
    let p0 := busRead 4 ((p1.1.extractLsb' 10 22).setWidth 32 * 4096#32 + (va.extractLsb' 12 10).setWidth 32 * 4#32) p1.2
    let valid : Word → Prop := fun p => p.getLsbD 0 = true ∧ ¬ (p.getLsbD 1 = false ∧ p.getLsbD 2 = true)
    let leaf : Word → Prop := fun p => p.getLsbD 1 = true ∨ p.getLsbD 3 = true
    let permits : Word → Prop := fun p =>
      ((eff = 0#2 ∧ p.getLsbD 4 = true) ∨ (eff = 1#2 ∧ (p.getLsbD 4 = false ∨ ms.getLsbD 18 = true))) ∧
      (match acc with
        | .fetch => p.getLsbD 3 = true
        | .read => p.getLsbD 1 = true ∨ (p.getLsbD 3 = true ∧ ms.getLsbD 19 = true)
        | .write => p.getLsbD 2 = true) ∧
      p.getLsbD 6 = true ∧ (acc = .write → p.getLsbD 7 = true)
    eff ≠ 3#2 →
    ((translate va acc s).1 = some pa ↔
      (valid p1.1 ∧ leaf p1.1 ∧ permits p1.1 ∧ p1.1.extractLsb' 10 10 = 0#10 ∧
        pa = p1.1.extractLsb' 20 10 ++ va.extractLsb' 12 10 ++ va.extractLsb' 0 12) ∨
      (valid p1.1 ∧ ¬ leaf p1.1 ∧ valid p0.1 ∧ leaf p0.1 ∧ permits p0.1 ∧
        pa = p0.1.extractLsb' 20 10 ++ p0.1.extractLsb' 10 10 ++ va.extractLsb' 0 12))

/-! ### The tick (70_reset_and_hazards.md) -/

/-- A step runs the decoded instruction (R501): with the run not ended, the pc aligned and the fetch translated to `pa`,
where the four bytes decode to `i`, the step is `exec i` at the state after the tick's first step and the fetch, followed
by the end of the tick; when the host has nothing to do, that first step advances the clock, and a fetch from RAM with
translation off changes nothing more. A host move due before the tick (R512, 20_memory.md R100; decision D33; that moves wait
in `host.inbox` is the model's choice, log 4) is made first: an idle one changes nothing; a receive move puts its bytes into
the RX buffer, the last one at an offset staying, sets MIP.SEIP if it says so, and touches nothing else. -/
def Obligations.StepRunsDecoded : Prop :=
  (∀ (s : State) (pa : Word) (i : Instr), s.exited = none →
    let b := beginTick s
    let f := (translate b.pc .fetch b).2
    b.pc.extractLsb' 0 2 = 0#2 → (translate b.pc .fetch b).1 = some pa → decode (busRead 4 pa f).1 = .ok i →
      step s = endTick (exec i (busRead 4 pa f).2)) ∧
  (∀ (s : State) (i : Instr), s.exited = none → s.host.inbox = [] → s.raised = false → s.mmu.mode = .off →
    s.pc.extractLsb' 0 2 = 0#2 → (∀ k, k < 4 → window s.cfg (s.pc + BitVec.ofNat 32 k).toNat = .ram) →
    decode (busPeek (s.pc + 3#32) s ++ busPeek (s.pc + 2#32) s ++ busPeek (s.pc + 1#32) s ++ busPeek s.pc s) = .ok i →
      step s = endTick (exec i { s with clock := s.clock + 1#32 })) ∧
  (∀ u : State, endTick (.next u) = finishTick u) ∧
  (∀ s : State, s.host.inbox = [] → beginTick s = { s with clock := s.clock + 1#32, raised := false }) ∧
  (∀ (s : State) (rest : List HostMove), s.host.inbox = .idle :: rest →
    beginTick s = { s with clock := s.clock + 1#32, raised := false, host := { s.host with inbox := rest } }) ∧
  (∀ (s : State) (bytes : List (Fin 4096 × Byte)) (seip : Bool) (rest : List HostMove),
    s.host.inbox = .receive bytes seip :: rest → s.mem.wf = true → Sparse.wf 0#32 s.csrs = true →
    let t := beginTick s
    (∀ x : Word, busPeek x t =
      match bytes.reverse.find? (fun c => decide (0x11001000 + c.1.val = x.toNat)) with
      | some c => c.2
      | none => busPeek x s) ∧
    (∀ a : CsrAddr, t.csr a = if a = csrMip ∧ seip = true then s.csr csrMip ||| 0x200#32 else s.csr a) ∧
    t = { s with
      mem := t.mem, csrs := t.csrs, clock := s.clock + 1#32, raised := false, host := { s.host with inbox := rest } })

/-- The exceptions of a fetch (R503, 20_memory.md R73, R119; that alignment is tested first is decision D6): a pc that is
not a multiple of 4 raises InstructionAddressMisaligned and fetches nothing, a pc that does not translate raises
InstructionPageFault; the value and the saved pc are that pc. -/
def Obligations.FetchExceptionsTrap : Prop :=
  (∀ s : State, s.exited = none → (beginTick s).pc.extractLsb' 0 2 ≠ 0#2 →
    step s = endTick (takeException .instructionAddressMisaligned s.pc (beginTick s))) ∧
  (∀ s : State, s.exited = none → (beginTick s).pc.extractLsb' 0 2 = 0#2 →
    (translate (beginTick s).pc .fetch (beginTick s)).1 = none →
    step s = endTick (takeException .instructionPageFault s.pc (translate (beginTick s).pc .fetch (beginTick s)).2)) ∧
  (∀ s : State, (beginTick s).pc = s.pc ∧ (beginTick s).priv = s.priv)

/-- An illegal word (30_encoding.md R146): when no row matches the fetched word, and only then, the decoder fails, and the
tick that fetched the word takes IllegalInstruction with the raw word as value and the pc as saved pc, in M or,
delegated, in S (60_exceptions.md R411, R415, R416, R418). The cause code 2 is the spec's general knowledge (R400, log 18);
the reservation and SPP at the entry are decisions D11 and D17. -/
def Obligations.IllegalWordTraps : Prop :=
  ∀ (s : State) (pa : Word), s.exited = none →
    let b := beginTick s
    let f := (translate b.pc .fetch b).2
    let w := (busRead 4 pa f).1
    let s2 := (busRead 4 pa f).2
    Sparse.wf 0#32 b.csrs = true → b.pc.extractLsb' 0 2 = 0#2 → (translate b.pc .fetch b).1 = some pa →
      ((∃ r ∈ opcodeRows, r.selects w = true) → ∃ i, decode w = .ok i) ∧
      ((∀ r ∈ opcodeRows, r.selects w = false) →
        step s = endTick (takeException .illegalInstruction w s2) ∧
        (GoesToM s2 2 → ∃ t, takeException .illegalInstruction w s2 = .next t ∧ EntersM s2 t 2 2#32 w s.pc) ∧
        (Delegated s2 2 → ¬ Demoted s2 2 →
          ∃ t, takeException .illegalInstruction w s2 = .next t ∧ EntersS s2 t 2 2#32 w s.pc))

/-- The state after reset (R500, 10_state.md R51): the values the spec's tables give, element by element (those marked
there by decision D1 included). RAM, MTD and DTB contents are launch parameters, so not stated (log 1). -/
def Obligations.ResetStateValues : Prop :=
  let s := State.reset
  (∀ r : Reg, s.reg r = if r = 11#5 then 0x1020#32 else 0#32) ∧ s.pc = 0x80000000#32 ∧ s.priv = .m ∧ s.clock = 0#32 ∧
  s.reservation = none ∧ (∀ a : CsrAddr, s.csr a = if a = 0x301#12 then 0x40141101#32 else 0#32) ∧
  s.mmu.mode = .off ∧ s.mmu.ppn = 0#22 ∧ s.clint.msip = false ∧ s.clint.mtime = 0#64 ∧ s.clint.mtimecmp = 0#64 ∧
  s.uart.lsr = 0x60#8 ∧ s.uart.rbr = 0#8 ∧ s.uart.thr = 0#8 ∧ s.uart.ier = 0#8 ∧ s.uart.lcr = 0#8 ∧ s.uart.mcr = 0#8 ∧
  s.uart.scr = 0#8 ∧ s.uart.threIp = false ∧ s.uart.rxIp = false ∧ s.rtc.rtc0 = 0#32 ∧ s.rtc.rtc1 = 0#32 ∧
  (∀ a : Word, 0x11000000 ≤ a.toNat → a.toNat ≤ 0x11001FFF → busPeek a s = 0#8) ∧ s.exited = none

/-- One tick is one count (R501, R504, R523, 10_state.md R25): every step that answers a next state has advanced the
clock by one modulo 2^32, and the launch parameters never change. -/
def Obligations.TickCountsOne : Prop :=
  ∀ s t : State, step s = .next t → t.clock = s.clock + 1#32 ∧ t.cfg = s.cfg

/-! ### Whole-machine rules -/

/-- The invariant holds after reset. -/
def Obligations.ResetHasInvariant : Prop := Inv State.reset

/-- Every step keeps the invariant: the canonical forms of memory and CSR file, bytes only where storage is, x0's zero,
mideleg's mask, the views without contents of their own, the UART's agreement, and no trap half delivered. -/
def Obligations.StepKeepsInvariant : Prop :=
  ∀ s t : State, Inv s → step s = .next t → Inv t

/-- Exceptions are precise (60_exceptions.md R402): an instruction that takes an exception writes no register and no byte
of memory, changes no device but the UART by the reads of its page walk, and of the CSRs only those delivery writes. -/
def Obligations.ExceptionsArePrecise : Prop :=
  ∀ (i : Instr) (s t : State), exec i s = .next t → s.raised = false → t.raised = true →
    (∀ r : Reg, t.reg r = s.reg r) ∧ t.mem = s.mem ∧
    t = { s with csrs := t.csrs, pc := t.pc, priv := t.priv, reservation := t.reservation, uart := t.uart, raised := true } ∧
    (t.priv = .m ∨ t.priv = .s) ∧
    (Sparse.wf 0#32 s.csrs = true → ∀ a : CsrAddr,
      a ∉ [csrMepc, csrMcause, csrMtval, csrMstatus, csrSepc, csrScause, csrStval] → t.csr a = s.csr a)

/-- The mode changes only by a trap or a trap return (10_state.md R24, 60_exceptions.md R421), and of the trap returns
only MRET and SRET. -/
def Obligations.PrivilegeChangesOnlyByTraps : Prop :=
  ∀ (i : Instr) (s t : State), exec i s = .next t → t.priv ≠ s.priv → t.raised = true ∨ i = .mret ∨ i = .sret

/-- What stops an instruction (R34, 60_exceptions.md R414, 46_system.md R346): never a fault; a refusal only where the
spec refuses, MRET that may run with MPP = 2 (decision D14), or an instruction whose own exception (`Raises`, with which
every meaning agrees; for CSR addresses with a[9:8] = 2 in M see log 21) is delegated and demoted to U (decision D15). -/
def Obligations.StopsOnlyByRule : Prop :=
  ∀ (i : Instr) (s : State),
    (∀ f, exec i s ≠ .fault f) ∧
    (∀ e tval s1, Raises i s e tval s1 → exec i s = takeException e tval s1 ∧ s1 = { s with uart := s1.uart }) ∧
    (∀ r, exec i s = .refused r →
      (r = .mretToReservedMode ∧ i = .mret ∧ ¬ (s.cfg.xretPrivCheck = true ∧ s.priv ≠ .m) ∧
        (s.csr csrMstatus).extractLsb' 11 2 = 2#2) ∨
      (r = .trapToUser ∧ ∃ e tval s1, Raises i s e tval s1 ∧ Delegated s1 e.code ∧ Demoted s1 e.code))
end

