-- ==== Sys2Proof/Laws/Sparse.lean ====
section
/-!
SUPPORT. The laws of the sparse lists in canonical form: what a write leaves to be read, that it keeps the form, and that
the contents determine the list.
-/
namespace Sys2Proof.Machine

variable {α : Type} [DecidableEq α] {d : α}

theorem Sparse.wf_cons {k : Nat} {w : α} {m : List (Nat × α)} :
    Sparse.wf d ((k, w) :: m) = true ↔ w ≠ d ∧ (∀ c ∈ m, k < c.1) ∧ Sparse.wf d m = true := by
  simp [Sparse.wf, and_assoc]

omit [DecidableEq α] in
/-- Below every listed key the default is read. -/
theorem Sparse.read_below (m : List (Nat × α)) (a : Nat) (h : ∀ c ∈ m, a < c.1) : Sparse.read d m a = d := by
  induction m with
  | nil => rfl
  | cons c m ih =>
    have hc := h c (by simp)
    simp only [Sparse.read]
    rw [if_neg (by omega)]
    exact ih (fun c hc => h c (by simp [hc]))

/-- A write adds no key but its own. -/
theorem Sparse.mem_write {m : List (Nat × α)} {a : Nat} {v : α} {c : Nat × α} (h : c ∈ Sparse.write d m a v) :
    c = (a, v) ∨ c ∈ m := by
  induction m with
  | nil => simp only [Sparse.write] at h; split at h <;> simp_all
  | cons e m ih =>
    simp only [Sparse.write] at h
    split at h
    · split at h <;> simp_all
    · split at h
      · split at h
        · exact .inr (by simp [h])
        · simp only [List.mem_cons] at h ⊢; tauto
      · rcases List.mem_cons.1 h with h | h
        · exact .inr (by simp [h])
        · rcases ih h with h | h
          · exact .inl h
          · exact .inr (by simp [h])

theorem Sparse.wf_write {m : List (Nat × α)} (h : Sparse.wf d m = true) (a : Nat) (v : α) :
    Sparse.wf d (Sparse.write d m a v) = true := by
  induction m with
  | nil => simp only [Sparse.write]; split <;> simp_all [Sparse.wf]
  | cons e m ih =>
    obtain ⟨k, w⟩ := e
    obtain ⟨hw, hlt, hm⟩ := Sparse.wf_cons.1 h
    simp only [Sparse.write]
    split
    · split
      · exact h
      · refine Sparse.wf_cons.2 ⟨by assumption, ?_, h⟩
        intro c hc
        rcases List.mem_cons.1 hc with rfl | hc
        · assumption
        · have := hlt c hc; omega
    · split
      · split
        · exact hm
        · subst a; exact Sparse.wf_cons.2 ⟨by assumption, hlt, hm⟩
      · refine Sparse.wf_cons.2 ⟨hw, ?_, ih hm⟩
        intro c hc
        rcases Sparse.mem_write hc with rfl | hc
        · simp only; omega
        · exact hlt c hc

/-- Read after write. -/
theorem Sparse.read_write {m : List (Nat × α)} (h : Sparse.wf d m = true) (a b : Nat) (v : α) :
    Sparse.read d (Sparse.write d m a v) b = if b = a then v else Sparse.read d m b := by
  induction m with
  | nil =>
    simp only [Sparse.write]
    split <;> simp_all [Sparse.read]
  | cons e m ih =>
    obtain ⟨k, w⟩ := e
    obtain ⟨hw, hlt, hm⟩ := Sparse.wf_cons.1 h
    have hbelow : ∀ x, x ≤ k → Sparse.read d m x = d := fun x hx =>
      Sparse.read_below m x (fun c hc => lt_of_le_of_lt hx (hlt c hc))
    by_cases h1 : a < k
    · by_cases h2 : v = d <;> by_cases h3 : b = a
      · simp [Sparse.write, Sparse.read, h1, h2, h3, Nat.ne_of_lt h1, hbelow a (Nat.le_of_lt h1)]
      · simp [Sparse.write, Sparse.read, h1, h2, h3]
      · simp [Sparse.write, Sparse.read, h1, h2, h3]
      · simp [Sparse.write, Sparse.read, h1, h2, h3]
    · by_cases h4 : a = k
      · by_cases h2 : v = d <;> by_cases h3 : b = a
        · simp [Sparse.write, h2, h3, h4, hbelow k (Nat.le_refl k)]
        · have h3' : ¬ b = k := by omega
          simp [Sparse.write, Sparse.read, h2, h4, h3']
        · simp [Sparse.write, Sparse.read, h2, h3, h4]
        · have h3' : ¬ b = k := by omega
          simp [Sparse.write, Sparse.read, h2, h4, h3']
      · have hk : ¬ k = a := fun h => h4 h.symm
        simp only [Sparse.write, h1, h4, if_false, Sparse.read, ih hm]
        by_cases h3 : b = k
        · simp [h3, hk]
        · simp [h3]

/-- Equal contents are equal lists. -/
theorem Sparse.ext {m n : List (Nat × α)} (hm : Sparse.wf d m = true) (hn : Sparse.wf d n = true)
    (h : ∀ a, Sparse.read d m a = Sparse.read d n a) : m = n := by
  induction m generalizing n with
  | nil =>
    cases n with
    | nil => rfl
    | cons e n =>
      have := h e.1
      simp only [Sparse.read, if_true] at this
      exact absurd this.symm (Sparse.wf_cons.1 hn).1
  | cons e m ih =>
    obtain ⟨k, w⟩ := e
    obtain ⟨hw, hlt, hm⟩ := Sparse.wf_cons.1 hm
    cases n with
    | nil =>
      have := h k
      simp only [Sparse.read, if_true] at this
      exact absurd this hw
    | cons e n =>
      obtain ⟨k', w'⟩ := e
      obtain ⟨hw', hlt', hn'⟩ := Sparse.wf_cons.1 hn
      have hkk : k = k' := by
        rcases Nat.lt_trichotomy k k' with hk | hk | hk
        · have := h k
          simp only [Sparse.read, if_true, if_neg (Nat.ne_of_lt hk)] at this
          rw [Sparse.read_below n k (fun c hc => Nat.lt_trans hk (hlt' c hc))] at this
          exact absurd this hw
        · exact hk
        · have := h k'
          simp only [Sparse.read, if_true, if_neg (Nat.ne_of_lt hk)] at this
          rw [Sparse.read_below m k' (fun c hc => Nat.lt_trans hk (hlt c hc))] at this
          exact absurd this.symm hw'
      subst hkk
      have hww : w = w' := by simpa [Sparse.read] using h k
      subst hww
      suffices hs : ∀ a, Sparse.read d m a = Sparse.read d n a by rw [ih hm hn' hs]
      intro a
      have ha := h a
      simp only [Sparse.read] at ha
      by_cases hak : a = k
      · subst hak
        rw [Sparse.read_below m a hlt, Sparse.read_below n a hlt']
      · simpa [hak] using ha

/-- Writes at different keys commute. -/
theorem Sparse.write_comm {m : List (Nat × α)} (h : Sparse.wf d m = true) {a b : Nat} (hab : a ≠ b) (v w : α) :
    Sparse.write d (Sparse.write d m a v) b w = Sparse.write d (Sparse.write d m b w) a v := by
  refine Sparse.ext (d := d) (Sparse.wf_write (Sparse.wf_write h _ _) _ _) (Sparse.wf_write (Sparse.wf_write h _ _) _ _) ?_
  intro x
  rw [Sparse.read_write (Sparse.wf_write h _ _), Sparse.read_write h, Sparse.read_write (Sparse.wf_write h _ _),
    Sparse.read_write h]
  by_cases hxa : x = a <;> by_cases hxb : x = b <;> simp_all

end Sys2Proof.Machine
end

