-- ==== Sys2Proof/Laws/State.lean ====
section
/-!
SUPPORT. The state's small lemmas: one per field per update, the register read after a register write, and the CSR read
after a CSR write. Generated in one shape; no proof needs to unfold a record update.
-/
namespace Sys2Proof.Machine

variable (s : State)

/-! ### setReg -/

@[simp] theorem State.setReg_cfg (r : Reg) (v : Word) : (s.setReg r v).cfg = s.cfg := rfl
@[simp] theorem State.setReg_regs (r : Reg) (v : Word) : (s.setReg r v).regs = if r = 0#5 then s.regs else s.regs.set r.toNat v r.isLt := rfl
@[simp] theorem State.setReg_pc (r : Reg) (v : Word) : (s.setReg r v).pc = s.pc := rfl
@[simp] theorem State.setReg_priv (r : Reg) (v : Word) : (s.setReg r v).priv = s.priv := rfl
@[simp] theorem State.setReg_clock (r : Reg) (v : Word) : (s.setReg r v).clock = s.clock := rfl
@[simp] theorem State.setReg_reservation (r : Reg) (v : Word) : (s.setReg r v).reservation = s.reservation := rfl
@[simp] theorem State.setReg_csrs (r : Reg) (v : Word) : (s.setReg r v).csrs = s.csrs := rfl
@[simp] theorem State.setReg_mmu (r : Reg) (v : Word) : (s.setReg r v).mmu = s.mmu := rfl
@[simp] theorem State.setReg_clint (r : Reg) (v : Word) : (s.setReg r v).clint = s.clint := rfl
@[simp] theorem State.setReg_uart (r : Reg) (v : Word) : (s.setReg r v).uart = s.uart := rfl
@[simp] theorem State.setReg_rtc (r : Reg) (v : Word) : (s.setReg r v).rtc = s.rtc := rfl
@[simp] theorem State.setReg_mem (r : Reg) (v : Word) : (s.setReg r v).mem = s.mem := rfl
@[simp] theorem State.setReg_host (r : Reg) (v : Word) : (s.setReg r v).host = s.host := rfl
@[simp] theorem State.setReg_raised (r : Reg) (v : Word) : (s.setReg r v).raised = s.raised := rfl
@[simp] theorem State.setReg_exited (r : Reg) (v : Word) : (s.setReg r v).exited = s.exited := rfl

/-! ### advance -/

@[simp] theorem State.advance_cfg : (s.advance).cfg = s.cfg := rfl
@[simp] theorem State.advance_regs : (s.advance).regs = s.regs := rfl
@[simp] theorem State.advance_pc : (s.advance).pc = s.pc + 4#32 := rfl
@[simp] theorem State.advance_priv : (s.advance).priv = s.priv := rfl
@[simp] theorem State.advance_clock : (s.advance).clock = s.clock := rfl
@[simp] theorem State.advance_reservation : (s.advance).reservation = s.reservation := rfl
@[simp] theorem State.advance_csrs : (s.advance).csrs = s.csrs := rfl
@[simp] theorem State.advance_mmu : (s.advance).mmu = s.mmu := rfl
@[simp] theorem State.advance_clint : (s.advance).clint = s.clint := rfl
@[simp] theorem State.advance_uart : (s.advance).uart = s.uart := rfl
@[simp] theorem State.advance_rtc : (s.advance).rtc = s.rtc := rfl
@[simp] theorem State.advance_mem : (s.advance).mem = s.mem := rfl
@[simp] theorem State.advance_host : (s.advance).host = s.host := rfl
@[simp] theorem State.advance_raised : (s.advance).raised = s.raised := rfl
@[simp] theorem State.advance_exited : (s.advance).exited = s.exited := rfl

/-! ### setCsr -/

@[simp] theorem State.setCsr_cfg (a : CsrAddr) (v : Word) : (s.setCsr a v).cfg = s.cfg := rfl
@[simp] theorem State.setCsr_regs (a : CsrAddr) (v : Word) : (s.setCsr a v).regs = s.regs := rfl
@[simp] theorem State.setCsr_pc (a : CsrAddr) (v : Word) : (s.setCsr a v).pc = s.pc := rfl
@[simp] theorem State.setCsr_priv (a : CsrAddr) (v : Word) : (s.setCsr a v).priv = s.priv := rfl
@[simp] theorem State.setCsr_clock (a : CsrAddr) (v : Word) : (s.setCsr a v).clock = s.clock := rfl
@[simp] theorem State.setCsr_reservation (a : CsrAddr) (v : Word) : (s.setCsr a v).reservation = s.reservation := rfl
@[simp] theorem State.setCsr_csrs (a : CsrAddr) (v : Word) : (s.setCsr a v).csrs = Sparse.write 0#32 s.csrs a.toNat v := rfl
@[simp] theorem State.setCsr_mmu (a : CsrAddr) (v : Word) : (s.setCsr a v).mmu = s.mmu := rfl
@[simp] theorem State.setCsr_clint (a : CsrAddr) (v : Word) : (s.setCsr a v).clint = s.clint := rfl
@[simp] theorem State.setCsr_uart (a : CsrAddr) (v : Word) : (s.setCsr a v).uart = s.uart := rfl
@[simp] theorem State.setCsr_rtc (a : CsrAddr) (v : Word) : (s.setCsr a v).rtc = s.rtc := rfl
@[simp] theorem State.setCsr_mem (a : CsrAddr) (v : Word) : (s.setCsr a v).mem = s.mem := rfl
@[simp] theorem State.setCsr_host (a : CsrAddr) (v : Word) : (s.setCsr a v).host = s.host := rfl
@[simp] theorem State.setCsr_raised (a : CsrAddr) (v : Word) : (s.setCsr a v).raised = s.raised := rfl
@[simp] theorem State.setCsr_exited (a : CsrAddr) (v : Word) : (s.setCsr a v).exited = s.exited := rfl

/-! ### setMip -/

@[simp] theorem State.setMip_cfg (p : Nat) (b : Bool) : (s.setMip p b).cfg = s.cfg := rfl
@[simp] theorem State.setMip_regs (p : Nat) (b : Bool) : (s.setMip p b).regs = s.regs := rfl
@[simp] theorem State.setMip_pc (p : Nat) (b : Bool) : (s.setMip p b).pc = s.pc := rfl
@[simp] theorem State.setMip_priv (p : Nat) (b : Bool) : (s.setMip p b).priv = s.priv := rfl
@[simp] theorem State.setMip_clock (p : Nat) (b : Bool) : (s.setMip p b).clock = s.clock := rfl
@[simp] theorem State.setMip_reservation (p : Nat) (b : Bool) : (s.setMip p b).reservation = s.reservation := rfl
@[simp] theorem State.setMip_csrs (p : Nat) (b : Bool) : (s.setMip p b).csrs = Sparse.write 0#32 s.csrs csrMip.toNat (putBit (s.csr csrMip) p b) := rfl
@[simp] theorem State.setMip_mmu (p : Nat) (b : Bool) : (s.setMip p b).mmu = s.mmu := rfl
@[simp] theorem State.setMip_clint (p : Nat) (b : Bool) : (s.setMip p b).clint = s.clint := rfl
@[simp] theorem State.setMip_uart (p : Nat) (b : Bool) : (s.setMip p b).uart = s.uart := rfl
@[simp] theorem State.setMip_rtc (p : Nat) (b : Bool) : (s.setMip p b).rtc = s.rtc := rfl
@[simp] theorem State.setMip_mem (p : Nat) (b : Bool) : (s.setMip p b).mem = s.mem := rfl
@[simp] theorem State.setMip_host (p : Nat) (b : Bool) : (s.setMip p b).host = s.host := rfl
@[simp] theorem State.setMip_raised (p : Nat) (b : Bool) : (s.setMip p b).raised = s.raised := rfl
@[simp] theorem State.setMip_exited (p : Nat) (b : Bool) : (s.setMip p b).exited = s.exited := rfl

/-! ### emit -/

@[simp] theorem State.emit_cfg (e : HostEvent) : (s.emit e).cfg = s.cfg := rfl
@[simp] theorem State.emit_regs (e : HostEvent) : (s.emit e).regs = s.regs := rfl
@[simp] theorem State.emit_pc (e : HostEvent) : (s.emit e).pc = s.pc := rfl
@[simp] theorem State.emit_priv (e : HostEvent) : (s.emit e).priv = s.priv := rfl
@[simp] theorem State.emit_clock (e : HostEvent) : (s.emit e).clock = s.clock := rfl
@[simp] theorem State.emit_reservation (e : HostEvent) : (s.emit e).reservation = s.reservation := rfl
@[simp] theorem State.emit_csrs (e : HostEvent) : (s.emit e).csrs = s.csrs := rfl
@[simp] theorem State.emit_mmu (e : HostEvent) : (s.emit e).mmu = s.mmu := rfl
@[simp] theorem State.emit_clint (e : HostEvent) : (s.emit e).clint = s.clint := rfl
@[simp] theorem State.emit_uart (e : HostEvent) : (s.emit e).uart = s.uart := rfl
@[simp] theorem State.emit_rtc (e : HostEvent) : (s.emit e).rtc = s.rtc := rfl
@[simp] theorem State.emit_mem (e : HostEvent) : (s.emit e).mem = s.mem := rfl
@[simp] theorem State.emit_host (e : HostEvent) : (s.emit e).host = { s.host with events := s.host.events ++ [e] } := rfl
@[simp] theorem State.emit_raised (e : HostEvent) : (s.emit e).raised = s.raised := rfl
@[simp] theorem State.emit_exited (e : HostEvent) : (s.emit e).exited = s.exited := rfl

/-! ### trapReturn -/

@[simp] theorem trapReturn_cfg (ms : Word) (prev : Priv) (target : Word) : (trapReturn ms prev target s).cfg = s.cfg := rfl
@[simp] theorem trapReturn_regs (ms : Word) (prev : Priv) (target : Word) : (trapReturn ms prev target s).regs = s.regs := rfl
@[simp] theorem trapReturn_pc (ms : Word) (prev : Priv) (target : Word) : (trapReturn ms prev target s).pc = target := rfl
@[simp] theorem trapReturn_priv (ms : Word) (prev : Priv) (target : Word) : (trapReturn ms prev target s).priv = prev := rfl
@[simp] theorem trapReturn_clock (ms : Word) (prev : Priv) (target : Word) : (trapReturn ms prev target s).clock = s.clock := rfl
@[simp] theorem trapReturn_reservation (ms : Word) (prev : Priv) (target : Word) : (trapReturn ms prev target s).reservation = s.reservation := rfl
@[simp] theorem trapReturn_csrs (ms : Word) (prev : Priv) (target : Word) : (trapReturn ms prev target s).csrs = (s.setCsr csrMstatus ms).csrs := rfl
@[simp] theorem trapReturn_mmu (ms : Word) (prev : Priv) (target : Word) : (trapReturn ms prev target s).mmu = s.mmu := rfl
@[simp] theorem trapReturn_clint (ms : Word) (prev : Priv) (target : Word) : (trapReturn ms prev target s).clint = s.clint := rfl
@[simp] theorem trapReturn_uart (ms : Word) (prev : Priv) (target : Word) : (trapReturn ms prev target s).uart = s.uart := rfl
@[simp] theorem trapReturn_rtc (ms : Word) (prev : Priv) (target : Word) : (trapReturn ms prev target s).rtc = s.rtc := rfl
@[simp] theorem trapReturn_mem (ms : Word) (prev : Priv) (target : Word) : (trapReturn ms prev target s).mem = s.mem := rfl
@[simp] theorem trapReturn_host (ms : Word) (prev : Priv) (target : Word) : (trapReturn ms prev target s).host = s.host := rfl
@[simp] theorem trapReturn_raised (ms : Word) (prev : Priv) (target : Word) : (trapReturn ms prev target s).raised = s.raised := rfl
@[simp] theorem trapReturn_exited (ms : Word) (prev : Priv) (target : Word) : (trapReturn ms prev target s).exited = s.exited := rfl

/-! ### Register reads -/

@[simp] theorem State.reg_zero : s.reg 0#5 = 0#32 := by simp [State.reg]

/-- The register file after a write: x0 stays 0, the register written reads the value, the others are as before. -/
theorem State.reg_setReg (rd : Reg) (v : Word) (r : Reg) :
    (s.setReg rd v).reg r = if r = rd ∧ rd ≠ 0#5 then v else s.reg r := by
  by_cases h0 : rd = 0#5
  · simp [State.reg, h0]
  · by_cases hr : r = 0#5
    · subst hr
      have : ¬ 0#5 = rd := fun h => h0 h.symm
      simp [State.reg, this]
    · have hne : r.toNat = rd.toNat ↔ r = rd := by rw [BitVec.toNat_inj]
      by_cases hrd : r = rd
      · subst hrd; simp [State.reg, h0]
      · have : ¬ rd.toNat = r.toNat := fun h => hrd (hne.1 h.symm)
        simp [State.reg, h0, hr, hrd, this]

/-- The register file is all a register read looks at. -/
theorem State.reg_congr {s t : State} (h : s.regs = t.regs) (r : Reg) : s.reg r = t.reg r := by simp [State.reg, h]

@[simp] theorem State.reg_advance (r : Reg) : s.advance.reg r = s.reg r := rfl
@[simp] theorem State.reg_setCsr (a : CsrAddr) (v : Word) (r : Reg) : (s.setCsr a v).reg r = s.reg r := rfl
@[simp] theorem State.reg_setMip (p : Nat) (b : Bool) (r : Reg) : (s.setMip p b).reg r = s.reg r := rfl
@[simp] theorem State.reg_emit (e : HostEvent) (r : Reg) : (s.emit e).reg r = s.reg r := rfl

/-! ### CSR reads -/

/-- The CSR array is all a raw CSR read looks at. -/
theorem State.csr_congr {s t : State} (h : s.csrs = t.csrs) (a : CsrAddr) : s.csr a = t.csr a := by simp [State.csr, h]

@[simp] theorem State.csr_setReg (r : Reg) (v : Word) (a : CsrAddr) : (s.setReg r v).csr a = s.csr a := rfl
@[simp] theorem State.csr_advance (a : CsrAddr) : s.advance.csr a = s.csr a := rfl
@[simp] theorem State.csr_emit (e : HostEvent) (a : CsrAddr) : (s.emit e).csr a = s.csr a := rfl

/-- A raw CSR read after a raw CSR write. -/
theorem State.csr_setCsr (h : Sparse.wf 0#32 s.csrs = true) (a : CsrAddr) (v : Word) (b : CsrAddr) :
    (s.setCsr a v).csr b = if b = a then v else s.csr b := by
  simp only [State.csr, State.setCsr, Sparse.read_write h, BitVec.toNat_inj]

theorem State.csr_setMip (h : Sparse.wf 0#32 s.csrs = true) (p : Nat) (v : Bool) (b : CsrAddr) :
    (s.setMip p v).csr b = if b = csrMip then putBit (s.csr csrMip) p v else s.csr b :=
  State.csr_setCsr s h csrMip _ b

theorem State.wf_setCsr (h : Sparse.wf 0#32 s.csrs = true) (a : CsrAddr) (v : Word) :
    Sparse.wf 0#32 (s.setCsr a v).csrs = true := Sparse.wf_write h _ _

theorem State.wf_setMip (h : Sparse.wf 0#32 s.csrs = true) (p : Nat) (b : Bool) :
    Sparse.wf 0#32 (s.setMip p b).csrs = true := Sparse.wf_write h _ _

end Sys2Proof.Machine
end

