-- ==== Sys2Proof/Laws/Bus.lean ====
section
/-!
SUPPORT. What the bus does: which fields a byte access can change, the two multi-byte accesses byte by byte, and that
every access keeps the canonical forms.
-/
namespace Sys2Proof.Machine

/-! ### Reads -/

/-- A byte read changes the UART at most. -/
theorem busReadEffect_eq (pa : Word) (s : State) :
    busReadEffect pa s = { s with uart := (busReadEffect pa s).uart } := by
  unfold busReadEffect
  generalize window s.cfg pa.toNat = w
  cases w <;> simp only

/-- Outside the UART's window a byte read changes nothing. -/
theorem busReadEffect_id {pa : Word} {s : State} (h : window s.cfg pa.toNat ≠ .uart) : busReadEffect pa s = s := by
  unfold busReadEffect; split
  · exact absurd ‹_› h
  · rfl

/-- A read of any length changes the UART at most. -/
theorem busRead_snd (n : Nat) (pa : Word) (s : State) : (busRead n pa s).2 = { s with uart := (busRead n pa s).2.uart } := by
  induction n generalizing pa s with
  | zero => rfl
  | succ n ih =>
    simp only [busRead, busReadByte]
    rw [ih (pa + 1#32) (busReadEffect pa s), busReadEffect_eq]

@[simp] theorem busRead_cfg (n : Nat) (pa : Word) (s : State) : (busRead n pa s).2.cfg = s.cfg := by rw [busRead_snd]
@[simp] theorem busRead_regs (n : Nat) (pa : Word) (s : State) : (busRead n pa s).2.regs = s.regs := by rw [busRead_snd]
@[simp] theorem busRead_pc (n : Nat) (pa : Word) (s : State) : (busRead n pa s).2.pc = s.pc := by rw [busRead_snd]
@[simp] theorem busRead_priv (n : Nat) (pa : Word) (s : State) : (busRead n pa s).2.priv = s.priv := by rw [busRead_snd]
@[simp] theorem busRead_clock (n : Nat) (pa : Word) (s : State) : (busRead n pa s).2.clock = s.clock := by rw [busRead_snd]
@[simp] theorem busRead_reservation (n : Nat) (pa : Word) (s : State) : (busRead n pa s).2.reservation = s.reservation := by
  rw [busRead_snd]
@[simp] theorem busRead_csrs (n : Nat) (pa : Word) (s : State) : (busRead n pa s).2.csrs = s.csrs := by rw [busRead_snd]
@[simp] theorem busRead_mmu (n : Nat) (pa : Word) (s : State) : (busRead n pa s).2.mmu = s.mmu := by rw [busRead_snd]
@[simp] theorem busRead_clint (n : Nat) (pa : Word) (s : State) : (busRead n pa s).2.clint = s.clint := by rw [busRead_snd]
@[simp] theorem busRead_rtc (n : Nat) (pa : Word) (s : State) : (busRead n pa s).2.rtc = s.rtc := by rw [busRead_snd]
@[simp] theorem busRead_mem (n : Nat) (pa : Word) (s : State) : (busRead n pa s).2.mem = s.mem := by rw [busRead_snd]
@[simp] theorem busRead_host (n : Nat) (pa : Word) (s : State) : (busRead n pa s).2.host = s.host := by rw [busRead_snd]
@[simp] theorem busRead_raised (n : Nat) (pa : Word) (s : State) : (busRead n pa s).2.raised = s.raised := by rw [busRead_snd]
@[simp] theorem busRead_exited (n : Nat) (pa : Word) (s : State) : (busRead n pa s).2.exited = s.exited := by rw [busRead_snd]
@[simp] theorem busRead_reg (n : Nat) (pa : Word) (s : State) (r : Reg) : (busRead n pa s).2.reg r = s.reg r := by
  rw [busRead_snd]; rfl
@[simp] theorem busRead_csr (n : Nat) (pa : Word) (s : State) (a : CsrAddr) : (busRead n pa s).2.csr a = s.csr a := by
  rw [busRead_snd]; rfl

/-- Where no byte of the access is a UART byte, the read is pure. -/
theorem busRead_state_of_pure (n : Nat) (pa : Word) (s : State)
    (h : ∀ i, i < n → window s.cfg (pa + BitVec.ofNat 32 i).toNat ≠ .uart) : (busRead n pa s).2 = s := by
  induction n generalizing pa s with
  | zero => rfl
  | succ n ih =>
    have h0 : busReadEffect pa s = s := busReadEffect_id (by simpa using h 0 (by omega))
    simp only [busRead, busReadByte, h0]
    refine ih (pa + 1#32) s (fun i hi => ?_)
    have hi' := h (i + 1) (by omega)
    have : pa + BitVec.ofNat 32 (i + 1) = pa + 1#32 + BitVec.ofNat 32 i := by
      rw [Nat.add_comm i 1, BitVec.ofNat_add, BitVec.add_assoc]
    rwa [this] at hi'

/-- A byte in front of a shorter value, as an append. -/
theorem byte_or_shift (b : Byte) (v : Word) : b.setWidth 32 ||| (v <<< 8) = (v.extractLsb' 0 24 ++ b) := by
  apply BitVec.eq_of_getLsbD_eq
  intro i hi
  simp only [BitVec.getLsbD_or, BitVec.getLsbD_setWidth, BitVec.getLsbD_shiftLeft, BitVec.getLsbD_append,
    BitVec.getLsbD_extractLsb', hi, decide_true, Bool.true_and]
  by_cases h : i < 8
  · simp [h]
  · have : b.getLsbD i = false := BitVec.getLsbD_of_ge _ _ (by omega)
    have h2 : i - 8 < 24 := by omega
    simp [h, this, h2]

/-- A four-byte read of pure bytes, little-endian (20_memory.md R71, R72). -/
theorem busRead_four_of_pure (pa : Word) (s : State)
    (h : ∀ i, i < 4 → window s.cfg (pa + BitVec.ofNat 32 i).toNat ≠ .uart) :
    busRead 4 pa s = (busPeek (pa + 3#32) s ++ busPeek (pa + 2#32) s ++ busPeek (pa + 1#32) s ++ busPeek pa s, s) := by
  have h0 : busReadEffect pa s = s := busReadEffect_id (by simpa using h 0 (by omega))
  have h1 : busReadEffect (pa + 1#32) s = s := busReadEffect_id (h 1 (by omega))
  have h2 : busReadEffect (pa + 1#32 + 1#32) s = s := busReadEffect_id (by
    have := h 2 (by omega); rwa [show pa + 1#32 + 1#32 = pa + 2#32 by rw [BitVec.add_assoc]; rfl])
  have h3 : busReadEffect (pa + 1#32 + 1#32 + 1#32) s = s := busReadEffect_id (by
    have := h 3 (by omega); rwa [show pa + 1#32 + 1#32 + 1#32 = pa + 3#32 by simp only [BitVec.add_assoc]; rfl])
  simp only [busRead, busReadByte, h0, h1, h2, h3, Prod.mk.injEq, and_true]
  rw [show pa + 1#32 + 1#32 = pa + 2#32 by rw [BitVec.add_assoc]; rfl,
    show pa + 2#32 + 1#32 = pa + 3#32 by rw [BitVec.add_assoc]; rfl]
  apply BitVec.eq_of_getLsbD_eq
  intro i hi
  simp only [byte_or_shift, BitVec.getLsbD_append, BitVec.getLsbD_extractLsb']
  by_cases c0 : i < 8
  · simp [c0]
  by_cases c1 : i < 16
  · simp [c0, show i - 8 < 24 by omega, show i - 8 < 8 by omega]
  by_cases c2 : i < 24
  · simp [c0, show i - 8 < 24 by omega, show ¬ i - 8 < 8 by omega, show i - 8 - 8 < 24 by omega, show i - 8 - 8 < 8 by omega]
  · simp [c0, show i - 8 < 24 by omega, show ¬ i - 8 < 8 by omega, show i - 8 - 8 < 24 by omega,
      show ¬ i - 8 - 8 < 8 by omega, show i - 8 - 8 - 8 < 24 by omega, show i - 8 - 8 - 8 < 8 by omega]

/-! ### Writes -/

/-- A CLINT byte write changes the CLINT and mip at most. -/
theorem clintWrite_eq (o : Nat) (b : Byte) (s : State) :
    clintWrite o b s = { s with clint := (clintWrite o b s).clint, csrs := (clintWrite o b s).csrs } := by
  by_cases h1 : o = 0
  · simp only [clintWrite, h1, if_true]; rfl
  · by_cases h2 : 0x4000 ≤ o ∧ o ≤ 0x4007
    · simp only [clintWrite, h1, h2, if_false, and_self, if_true]; rfl
    · by_cases h3 : 0xBFF8 ≤ o ∧ o ≤ 0xBFFF
      · simp only [clintWrite, h1, h2, h3, if_false, and_self, if_true]
      · simp only [clintWrite, h1, h2, h3, if_false]

/-- An RTC byte write changes the RTC and the draw counter at most. -/
theorem rtcWrite_eq (o : Nat) (b : Byte) (s : State) :
    rtcWrite o b s =
      { s with rtc := (rtcWrite o b s).rtc, host := { s.host with draws := (rtcWrite o b s).host.draws } } := by
  by_cases h : o = 0x7F8 ∧ b = 0x40#8
  · simp only [rtcWrite, h, and_self, if_true]
  · simp only [rtcWrite, h, if_false]

/-- The fields a byte write can change: memory, CSR file (mip), CLINT, UART, RTC and the draw counter. -/
theorem busWriteByte_eq (pa : Word) (b : Byte) (s : State) :
    busWriteByte pa b s =
      { s with
        mem := (busWriteByte pa b s).mem, csrs := (busWriteByte pa b s).csrs, clint := (busWriteByte pa b s).clint,
        uart := (busWriteByte pa b s).uart, rtc := (busWriteByte pa b s).rtc,
        host := { s.host with draws := (busWriteByte pa b s).host.draws } } := by
  unfold busWriteByte
  generalize window s.cfg pa.toNat = w
  cases w
  case clint => simp only; rw [clintWrite_eq]
  case rtc => simp only; rw [rtcWrite_eq]
  case mtd => by_cases h : s.cfg.mtdWritable = true <;> simp only [h, if_true, if_false, Bool.false_eq_true]
  all_goals simp only

theorem busWrite_eq (n : Nat) (pa v : Word) (s : State) :
    busWrite n pa v s =
      { s with
        mem := (busWrite n pa v s).mem, csrs := (busWrite n pa v s).csrs, clint := (busWrite n pa v s).clint,
        uart := (busWrite n pa v s).uart, rtc := (busWrite n pa v s).rtc,
        host := { s.host with draws := (busWrite n pa v s).host.draws } } := by
  induction n generalizing pa v s with
  | zero => rfl
  | succ n ih =>
    simp only [busWrite]
    rw [ih]
    generalize busWrite n (pa + 1#32) (v >>> 8) (busWriteByte pa (v.setWidth 8) s) = t
    rw [busWriteByte_eq]

@[simp] theorem busWrite_cfg (n : Nat) (pa v : Word) (s : State) : (busWrite n pa v s).cfg = s.cfg := by rw [busWrite_eq]
@[simp] theorem busWrite_regs (n : Nat) (pa v : Word) (s : State) : (busWrite n pa v s).regs = s.regs := by rw [busWrite_eq]
@[simp] theorem busWrite_pc (n : Nat) (pa v : Word) (s : State) : (busWrite n pa v s).pc = s.pc := by rw [busWrite_eq]
@[simp] theorem busWrite_priv (n : Nat) (pa v : Word) (s : State) : (busWrite n pa v s).priv = s.priv := by rw [busWrite_eq]
@[simp] theorem busWrite_clock (n : Nat) (pa v : Word) (s : State) : (busWrite n pa v s).clock = s.clock := by
  rw [busWrite_eq]
@[simp] theorem busWrite_reservation (n : Nat) (pa v : Word) (s : State) :
    (busWrite n pa v s).reservation = s.reservation := by rw [busWrite_eq]
@[simp] theorem busWrite_mmu (n : Nat) (pa v : Word) (s : State) : (busWrite n pa v s).mmu = s.mmu := by rw [busWrite_eq]
@[simp] theorem busWrite_raised (n : Nat) (pa v : Word) (s : State) : (busWrite n pa v s).raised = s.raised := by
  rw [busWrite_eq]
@[simp] theorem busWrite_exited (n : Nat) (pa v : Word) (s : State) : (busWrite n pa v s).exited = s.exited := by
  rw [busWrite_eq]
@[simp] theorem busWrite_reg (n : Nat) (pa v : Word) (s : State) (r : Reg) : (busWrite n pa v s).reg r = s.reg r := by
  rw [busWrite_eq]; rfl

/-! ### Plain memory -/

theorem Memory.wf_write {m : Memory} (h : m.wf = true) (a : Nat) (b : Byte) : (m.write a b).wf = true :=
  Sparse.wf_write h a b

theorem Memory.read_write {m : Memory} (h : m.wf = true) (a : Nat) (b : Byte) (x : Nat) :
    (m.write a b).read x = if x = a then b else m.read x :=
  Sparse.read_write h a x b

/-- Memories with the same contents are the same list. -/
theorem Memory.ext {m n : Memory} (hm : m.wf = true) (hn : n.wf = true) (h : ∀ a, m.read a = n.read a) : m = n :=
  Sparse.ext hm hn h

theorem Memory.reset_wf : State.reset.mem.wf = true := rfl

theorem clintWrite_csrs_wf {s : State} (h : Sparse.wf 0#32 s.csrs = true) (o : Nat) (b : Byte) :
    Sparse.wf 0#32 (clintWrite o b s).csrs = true := by
  by_cases h1 : o = 0
  · simp only [clintWrite, h1, if_true]; exact Sparse.wf_write h _ _
  · by_cases h2 : 0x4000 ≤ o ∧ o ≤ 0x4007
    · simp only [clintWrite, h1, h2, if_false, and_self, if_true]
      exact Sparse.wf_write (Sparse.wf_write h _ _) _ _
    · by_cases h3 : 0xBFF8 ≤ o ∧ o ≤ 0xBFFF
      · simpa only [clintWrite, h1, h2, h3, if_false, and_self, if_true] using h
      · simpa only [clintWrite, h1, h2, h3, if_false] using h

theorem busWriteByte_mem_wf {s : State} (h : s.mem.wf = true) (pa : Word) (b : Byte) :
    (busWriteByte pa b s).mem.wf = true := by
  unfold busWriteByte
  generalize window s.cfg pa.toNat = w
  cases w
  case clint => simp only; rw [clintWrite_eq]; exact h
  case rtc => simp only; rw [rtcWrite_eq]; exact h
  case mtd =>
    by_cases hw : s.cfg.mtdWritable = true
    · simp only [hw, if_true]; exact Memory.wf_write h _ _
    · simpa only [hw, if_false, Bool.false_eq_true] using h
  all_goals simp only
  all_goals first
    | assumption
    | exact Memory.wf_write h _ _

theorem busWriteByte_csrs_wf {s : State} (h : Sparse.wf 0#32 s.csrs = true) (pa : Word) (b : Byte) :
    Sparse.wf 0#32 (busWriteByte pa b s).csrs = true := by
  unfold busWriteByte
  generalize window s.cfg pa.toNat = w
  cases w
  case clint => simp only; exact clintWrite_csrs_wf h _ _
  case rtc => simp only; rw [rtcWrite_eq]; exact h
  case mtd => by_cases hw : s.cfg.mtdWritable = true <;> simpa only [hw, if_true, if_false, Bool.false_eq_true] using h
  all_goals simp only; assumption

theorem busWrite_mem_wf (n : Nat) (pa v : Word) {s : State} (h : s.mem.wf = true) :
    (busWrite n pa v s).mem.wf = true := by
  induction n generalizing pa v s with
  | zero => exact h
  | succ n ih => exact ih (pa + 1#32) (v >>> 8) (busWriteByte_mem_wf h pa (v.setWidth 8))

theorem busWrite_csrs_wf (n : Nat) (pa v : Word) {s : State} (h : Sparse.wf 0#32 s.csrs = true) :
    Sparse.wf 0#32 (busWrite n pa v s).csrs = true := by
  induction n generalizing pa v s with
  | zero => exact h
  | succ n ih => exact ih (pa + 1#32) (v >>> 8) (busWriteByte_csrs_wf h pa (v.setWidth 8))

/-- A byte write into RAM changes that byte and nothing else. -/
theorem busWriteByte_ram {pa : Word} {s : State} (h : window s.cfg pa.toNat = .ram) (b : Byte) :
    busWriteByte pa b s = { s with mem := s.mem.write pa.toNat b } := by
  simp only [busWriteByte, h]

theorem busPeek_ram {pa : Word} {s : State} (h : window s.cfg pa.toNat = .ram) : busPeek pa s = s.mem.read pa.toNat := by
  simp only [busPeek, h]

/-- A byte of the bus after a byte write into RAM. -/
theorem busPeek_write_ram {s : State} (hwf : s.mem.wf = true) {pa : Word} (h : window s.cfg pa.toNat = .ram) (b : Byte)
    (x : Word) : busPeek x (busWriteByte pa b s) = if x = pa then b else busPeek x s := by
  rw [busWriteByte_ram h]
  by_cases hx : x = pa
  · subst hx; simp [busPeek, h, Memory.read_write hwf]
  · have : ¬ x.toNat = pa.toNat := fun e => hx (BitVec.eq_of_toNat_eq e)
    simp only [busPeek, Memory.read_write hwf, this, hx, if_false]

/-! ### Bytes of the device registers -/

/-- Two BCD digits as a number (20_memory.md R96). -/
theorem bcd_toNat {n : Nat} (h : n < 100) : (bcd n).toNat = 16 * (n / 10) + n % 10 := by
  simp only [bcd, BitVec.toNat_ofNat]
  omega

/-- A word put together from four bytes has them as its bytes, the first one lowest. -/
theorem byteAt_wordOfBytes (a b c d : Byte) {i : Nat} (h : i < 4) :
    byteAt (wordOfBytes a b c d) i = if i = 0 then a else if i = 1 then b else if i = 2 then c else d := by
  apply BitVec.eq_of_getLsbD_eq
  intro k hk
  interval_cases i <;> simp only [byteAt, wordOfBytes, BitVec.getLsbD_extractLsb', BitVec.getLsbD_append] <;>
    interval_cases k <;> simp

end Sys2Proof.Machine
end

