-- ==== Sys2Proof/Laws/Csr.lean ====
section
/-!
SUPPORT. What the CSR file's read and write functions do (10_state.md R48, R49).
-/
namespace Sys2Proof.Machine

/-- A CSR read moves the draw counter at most, and only at 0x0C3. -/
theorem csrRead_snd (a : CsrAddr) (s : State) :
    (csrRead a s).2 = if a = csrNetRxReady then { s with host := { s.host with draws := s.host.draws + 1 } } else s := by
  unfold csrRead
  by_cases h : a = csrNetRxReady
  · subst h; rfl
  · simp only [h, if_false]
    repeat' split
    all_goals rfl

/-- Any CSR read, as a state that differs from `s` in the host port at most. -/
theorem csrRead_snd_host (a : CsrAddr) (s : State) : (csrRead a s).2 = { s with host := (csrRead a s).2.host } := by
  rw [csrRead_snd]; split <;> rfl

/-- An address with no rule of its own reads its entry (10_state.md R47). -/
theorem csrRead_plain {a : CsrAddr} (s : State)
    (h : a ≠ csrSstatus ∧ a ≠ csrSie ∧ a ≠ csrSip ∧ a ≠ csrSatp ∧ a ≠ csrCycle ∧ a ≠ csrMcycle ∧ a ≠ csrTime ∧
      a ≠ csrNetTxBase ∧ a ≠ csrNetRxBase ∧ a ≠ csrNetRxReady) : csrRead a s = (s.csr a, s) := by
  obtain ⟨h1, h2, h3, h4, h5, h6, h7, h8, h9, h10⟩ := h
  simp only [csrRead, h1, h2, h3, h4, h5, h6, h7, h8, h9, h10, or_self, if_false]

/-- An address with no rule of its own stores the value (10_state.md R47). -/
theorem csrWrite_plain {a : CsrAddr} (v : Word) (s : State)
    (h : a ≠ csrSstatus ∧ a ≠ csrSie ∧ a ≠ csrSip ∧ a ≠ csrMideleg ∧ a ≠ csrSatp ∧ a ≠ csrMcycle ∧
      a ≠ csrNetTxBase ∧ a ≠ csrNetRxBase ∧ a ≠ csrNetTxSend) : csrWrite a v s = s.setCsr a v := by
  obtain ⟨h1, h2, h3, h4, h5, h6, h7, h8, h9⟩ := h
  simp only [csrWrite, h1, h2, h3, h4, h5, h6, h7, h8, h9, or_self, if_false]

/-- A CSR write changes the CSR file, the MMU's copy of satp and the host events at most. -/
theorem csrWrite_eq (a : CsrAddr) (v : Word) (s : State) :
    csrWrite a v s =
      { s with csrs := (csrWrite a v s).csrs, mmu := (csrWrite a v s).mmu, host := (csrWrite a v s).host } := by
  unfold csrWrite
  repeat' split
  all_goals rfl

theorem csrWrite_csrs_wf {s : State} (h : Sparse.wf 0#32 s.csrs = true) (a : CsrAddr) (v : Word) :
    Sparse.wf 0#32 (csrWrite a v s).csrs = true := by
  unfold csrWrite
  repeat' split
  all_goals first
    | exact h
    | exact Sparse.wf_write h _ _

@[simp] theorem csrRead_cfg (a : CsrAddr) (s : State) : (csrRead a s).2.cfg = s.cfg := by rw [csrRead_snd_host]
@[simp] theorem csrRead_regs (a : CsrAddr) (s : State) : (csrRead a s).2.regs = s.regs := by rw [csrRead_snd_host]
@[simp] theorem csrRead_pc (a : CsrAddr) (s : State) : (csrRead a s).2.pc = s.pc := by rw [csrRead_snd_host]
@[simp] theorem csrRead_priv (a : CsrAddr) (s : State) : (csrRead a s).2.priv = s.priv := by rw [csrRead_snd_host]
@[simp] theorem csrRead_clock (a : CsrAddr) (s : State) : (csrRead a s).2.clock = s.clock := by rw [csrRead_snd_host]
@[simp] theorem csrRead_reservation (a : CsrAddr) (s : State) : (csrRead a s).2.reservation = s.reservation := by rw [csrRead_snd_host]
@[simp] theorem csrRead_csrs (a : CsrAddr) (s : State) : (csrRead a s).2.csrs = s.csrs := by rw [csrRead_snd_host]
@[simp] theorem csrRead_mmu (a : CsrAddr) (s : State) : (csrRead a s).2.mmu = s.mmu := by rw [csrRead_snd_host]
@[simp] theorem csrRead_clint (a : CsrAddr) (s : State) : (csrRead a s).2.clint = s.clint := by rw [csrRead_snd_host]
@[simp] theorem csrRead_uart (a : CsrAddr) (s : State) : (csrRead a s).2.uart = s.uart := by rw [csrRead_snd_host]
@[simp] theorem csrRead_rtc (a : CsrAddr) (s : State) : (csrRead a s).2.rtc = s.rtc := by rw [csrRead_snd_host]
@[simp] theorem csrRead_mem (a : CsrAddr) (s : State) : (csrRead a s).2.mem = s.mem := by rw [csrRead_snd_host]
@[simp] theorem csrRead_raised (a : CsrAddr) (s : State) : (csrRead a s).2.raised = s.raised := by rw [csrRead_snd_host]
@[simp] theorem csrRead_exited (a : CsrAddr) (s : State) : (csrRead a s).2.exited = s.exited := by rw [csrRead_snd_host]
@[simp] theorem csrRead_reg (a : CsrAddr) (s : State) (r : Reg) : (csrRead a s).2.reg r = s.reg r := by
  rw [csrRead_snd_host]; rfl
@[simp] theorem csrRead_csr (a b : CsrAddr) (s : State) : (csrRead a s).2.csr b = s.csr b := by
  rw [csrRead_snd_host]; rfl

@[simp] theorem csrWrite_cfg (a : CsrAddr) (v : Word) (s : State) : (csrWrite a v s).cfg = s.cfg := by rw [csrWrite_eq]
@[simp] theorem csrWrite_regs (a : CsrAddr) (v : Word) (s : State) : (csrWrite a v s).regs = s.regs := by rw [csrWrite_eq]
@[simp] theorem csrWrite_pc (a : CsrAddr) (v : Word) (s : State) : (csrWrite a v s).pc = s.pc := by rw [csrWrite_eq]
@[simp] theorem csrWrite_priv (a : CsrAddr) (v : Word) (s : State) : (csrWrite a v s).priv = s.priv := by rw [csrWrite_eq]
@[simp] theorem csrWrite_clock (a : CsrAddr) (v : Word) (s : State) : (csrWrite a v s).clock = s.clock := by rw [csrWrite_eq]
@[simp] theorem csrWrite_reservation (a : CsrAddr) (v : Word) (s : State) : (csrWrite a v s).reservation = s.reservation := by rw [csrWrite_eq]
@[simp] theorem csrWrite_clint (a : CsrAddr) (v : Word) (s : State) : (csrWrite a v s).clint = s.clint := by rw [csrWrite_eq]
@[simp] theorem csrWrite_uart (a : CsrAddr) (v : Word) (s : State) : (csrWrite a v s).uart = s.uart := by rw [csrWrite_eq]
@[simp] theorem csrWrite_rtc (a : CsrAddr) (v : Word) (s : State) : (csrWrite a v s).rtc = s.rtc := by rw [csrWrite_eq]
@[simp] theorem csrWrite_mem (a : CsrAddr) (v : Word) (s : State) : (csrWrite a v s).mem = s.mem := by rw [csrWrite_eq]
@[simp] theorem csrWrite_raised (a : CsrAddr) (v : Word) (s : State) : (csrWrite a v s).raised = s.raised := by rw [csrWrite_eq]
@[simp] theorem csrWrite_exited (a : CsrAddr) (v : Word) (s : State) : (csrWrite a v s).exited = s.exited := by rw [csrWrite_eq]
@[simp] theorem csrWrite_reg (a : CsrAddr) (v : Word) (s : State) (r : Reg) : (csrWrite a v s).reg r = s.reg r := by
  rw [csrWrite_eq]; rfl

/-- The CSR a write goes to, and the value that arrives there; none where no array entry changes (10_state.md R49). -/
theorem csrWrite_csr {s : State} (h : Sparse.wf 0#32 s.csrs = true) (a : CsrAddr) (v : Word) (b : CsrAddr) :
    (csrWrite a v s).csr b =
      if a = csrSstatus then (if b = csrMstatus then viewWrite sstatusMask (s.csr csrMstatus) v else s.csr b)
      else if a = csrSie then (if b = csrMie then viewWrite sieMask (s.csr csrMie) v else s.csr b)
      else if a = csrSip then (if b = csrMip then viewWrite sieMask (s.csr csrMip) v else s.csr b)
      else if a = csrMideleg then (if b = csrMideleg then v &&& midelegMask else s.csr b)
      else if a = csrSatp ∨ a = csrMcycle ∨ a = csrNetTxBase ∨ a = csrNetRxBase then s.csr b
      else (if b = a then v else s.csr b) := by
  unfold csrWrite
  by_cases h1 : a = csrSstatus
  · simp only [h1, if_true]; exact State.csr_setCsr s h _ _ _
  by_cases h2 : a = csrSie
  · subst h2; exact State.csr_setCsr s h _ _ _
  by_cases h3 : a = csrSip
  · subst h3; exact State.csr_setCsr s h _ _ _
  by_cases h4 : a = csrMideleg
  · subst h4; exact State.csr_setCsr s h _ _ _
  by_cases h5 : a = csrSatp
  · subst h5; rfl
  by_cases h6 : a = csrMcycle ∨ a = csrNetTxBase ∨ a = csrNetRxBase
  · simp only [h1, h2, h3, h4, h5, h6, if_false, if_true, or_true]
  by_cases h7 : a = csrNetTxSend
  · simp only [h1, h2, h3, h4, h5, h6, if_false, or_self]
    rw [if_pos h7, h7]; exact State.csr_setCsr s h _ _ _
  · simp only [h1, h2, h3, h4, h5, h6, h7, if_false, or_self]; exact State.csr_setCsr s h _ _ _

end Sys2Proof.Machine
end

