-- ==== Sys2Proof/Laws/Decode.lean ====
section
/-!
SUPPORT. The encoding's laws: the fields of a word put together from fields, a word as its fields, what each mask keeps,
and that a selected row is the row the decoder finds.
-/
namespace Sys2Proof

/-! ### A word and its fields -/

theorem toNat_append_eq {n m : Nat} (a : BitVec n) (b : BitVec m) : (a ++ b).toNat = a.toNat * 2 ^ m + b.toNat := by
  rw [BitVec.toNat_append, ← Nat.shiftLeft_add_eq_or_of_lt b.isLt, Nat.shiftLeft_eq]

/-- `w[6:0]`. -/
abbrev fieldOp (w : Word) : BitVec 7 := w.extractLsb' 0 7
/-- `w[14:12]`. -/
abbrev fieldFunct3 (w : Word) : BitVec 3 := w.extractLsb' 12 3

variable (hi : BitVec 12) (rs1 : BitVec 5) (f3 : BitVec 3) (rd : BitVec 5) (op : BitVec 7)

theorem encodeRaw_toNat : (encodeRaw hi rs1 f3 rd op).toNat =
    (((hi.toNat * 32 + rs1.toNat) * 8 + f3.toNat) * 32 + rd.toNat) * 128 + op.toNat := by
  simp only [encodeRaw, toNat_append_eq]; rfl

@[simp] theorem fieldOp_encodeRaw : fieldOp (encodeRaw hi rs1 f3 rd op) = op := by
  apply BitVec.eq_of_toNat_eq
  simp only [BitVec.extractLsb'_toNat, encodeRaw_toNat, Nat.shiftRight_eq_div_pow]
  omega

@[simp] theorem fieldRd_encodeRaw : fieldRd (encodeRaw hi rs1 f3 rd op) = rd := by
  apply BitVec.eq_of_toNat_eq
  simp only [fieldRd, BitVec.extractLsb'_toNat, encodeRaw_toNat, Nat.shiftRight_eq_div_pow]
  omega

@[simp] theorem fieldFunct3_encodeRaw : fieldFunct3 (encodeRaw hi rs1 f3 rd op) = f3 := by
  apply BitVec.eq_of_toNat_eq
  simp only [BitVec.extractLsb'_toNat, encodeRaw_toNat, Nat.shiftRight_eq_div_pow]
  omega

@[simp] theorem fieldRs1_encodeRaw : fieldRs1 (encodeRaw hi rs1 f3 rd op) = rs1 := by
  apply BitVec.eq_of_toNat_eq
  simp only [fieldRs1, BitVec.extractLsb'_toNat, encodeRaw_toNat, Nat.shiftRight_eq_div_pow]
  omega

@[simp] theorem fieldCsr_encodeRaw : fieldCsr (encodeRaw hi rs1 f3 rd op) = hi := by
  apply BitVec.eq_of_toNat_eq
  simp only [fieldCsr, BitVec.extractLsb'_toNat, encodeRaw_toNat, Nat.shiftRight_eq_div_pow]
  omega

/-- A word is its fields. -/
theorem encodeRaw_fields (w : Word) :
    encodeRaw (fieldCsr w) (fieldRs1 w) (fieldFunct3 w) (fieldRd w) (fieldOp w) = w := by
  apply BitVec.eq_of_toNat_eq
  simp only [encodeRaw_toNat, fieldCsr, fieldRs1, fieldRd, BitVec.extractLsb'_toNat, Nat.shiftRight_eq_div_pow]
  omega

/-- Words with the same fields are the same. -/
theorem word_ext {v w : Word} (h1 : fieldCsr v = fieldCsr w) (h2 : fieldRs1 v = fieldRs1 w)
    (h3 : fieldFunct3 v = fieldFunct3 w) (h4 : fieldRd v = fieldRd w) (h5 : fieldOp v = fieldOp w) : v = w := by
  rw [← encodeRaw_fields v, ← encodeRaw_fields w, h1, h2, h3, h4, h5]

/-! ### The other formats as fields -/

theorem encodeR_raw (f7 : BitVec 7) (rs2 rs1 : Reg) : encodeR f7 rs2 rs1 f3 rd op = encodeRaw (f7 ++ rs2) rs1 f3 rd op := rfl

theorem encodeAmo_raw (f5 : BitVec 5) (aq rl : Bool) (rs2 rs1 : Reg) :
    encodeAmo f5 aq rl rs2 rs1 f3 rd op = encodeRaw (f5 ++ BitVec.ofBool aq ++ BitVec.ofBool rl ++ rs2) rs1 f3 rd op := rfl

theorem encodeShift_raw (f6 : BitVec 6) (b25 : Bool) (shamt rs1 : BitVec 5) :
    encodeShift f6 b25 shamt rs1 f3 rd op = encodeRaw (f6 ++ BitVec.ofBool b25 ++ shamt) rs1 f3 rd op := rfl

theorem encodeS_raw (imm : Word) (rs2 rs1 : Reg) :
    encodeS imm rs2 rs1 f3 op = encodeRaw (imm.extractLsb' 5 7 ++ rs2) rs1 f3 (imm.extractLsb' 0 5) op := rfl

theorem encodeB_raw (imm : Word) (rs2 rs1 : Reg) :
    encodeB imm rs2 rs1 f3 op =
      encodeRaw (imm.extractLsb' 12 1 ++ imm.extractLsb' 5 6 ++ rs2) rs1 f3 (imm.extractLsb' 1 4 ++ imm.extractLsb' 11 1) op := by
  apply BitVec.eq_of_toNat_eq
  rw [encodeRaw_toNat]
  simp only [encodeB, toNat_append_eq]
  omega

theorem encodeU_toNat (imm : Word) : (encodeU imm rd op).toNat = (imm.toNat / 4096 * 32 + rd.toNat) * 128 + op.toNat := by
  have := imm.isLt
  simp only [encodeU, toNat_append_eq, BitVec.extractLsb'_toNat, Nat.shiftRight_eq_div_pow]
  omega

theorem encodeJ_toNat (imm : Word) : (encodeJ imm rd op).toNat =
    ((((imm.toNat / 1048576 % 2 * 1024 + imm.toNat / 2 % 1024) * 2 + imm.toNat / 2048 % 2) * 256 + imm.toNat / 4096 % 256) * 32
      + rd.toNat) * 128 + op.toNat := by
  simp only [encodeJ, toNat_append_eq, BitVec.extractLsb'_toNat, Nat.shiftRight_eq_div_pow]; rfl

/-! ### What a mask keeps -/

/-- A word agrees with a pattern under a mask when it does bit by bit. -/
theorem and_eq_iff_bits (w m b : Word) :
    w &&& m = b ↔ ∀ i, i < 32 → (w.getLsbD i && m.getLsbD i) = b.getLsbD i := by
  constructor
  · rintro rfl i _; simp
  · intro h; apply BitVec.eq_of_getLsbD_eq; intro i hi; rw [BitVec.getLsbD_and]; exact h i hi

theorem mask_7f (w : Word) : w &&& 0x0000007f#32 = (fieldOp w).setWidth 32 := by
  apply BitVec.eq_of_getLsbD_eq
  intro i hi
  interval_cases i <;> simp [fieldOp]

theorem mask_707f (w : Word) : w &&& 0x0000707f#32 = (0#17 ++ fieldFunct3 w ++ 0#5 ++ fieldOp w : BitVec 32) := by
  apply BitVec.eq_of_getLsbD_eq
  intro i hi
  interval_cases i <;> simp only [BitVec.getLsbD_and, BitVec.getLsbD_append, BitVec.getLsbD_extractLsb'] <;> simp

/-- Masks that cover the opcode, funct3 and a part `m` of the high twelve bits. -/
theorem mask_hi (m : BitVec 12) (w : Word) : w &&& (m ++ 0#5 ++ 7#3 ++ 0#5 ++ 0x7f#7 : BitVec 32) =
    ((fieldCsr w &&& m) ++ 0#5 ++ fieldFunct3 w ++ 0#5 ++ fieldOp w : BitVec 32) := by
  apply BitVec.eq_of_getLsbD_eq
  intro i hi
  interval_cases i <;>
    simp only [fieldCsr, BitVec.getLsbD_and, BitVec.getLsbD_append, BitVec.getLsbD_extractLsb'] <;> simp

theorem mask_f800707f (w : Word) : w &&& 0xf800707f#32 =
    ((fieldCsr w &&& 0xf80#12) ++ 0#5 ++ fieldFunct3 w ++ 0#5 ++ fieldOp w : BitVec 32) := mask_hi 0xf80#12 w

theorem mask_f9f0707f (w : Word) : w &&& 0xf9f0707f#32 =
    ((fieldCsr w &&& 0xf9f#12) ++ 0#5 ++ fieldFunct3 w ++ 0#5 ++ fieldOp w : BitVec 32) := mask_hi 0xf9f#12 w

theorem mask_fc00707f (w : Word) : w &&& 0xfc00707f#32 =
    ((fieldCsr w &&& 0xfc0#12) ++ 0#5 ++ fieldFunct3 w ++ 0#5 ++ fieldOp w : BitVec 32) := mask_hi 0xfc0#12 w

theorem mask_fe00707f (w : Word) : w &&& 0xfe00707f#32 =
    ((fieldCsr w &&& 0xfe0#12) ++ 0#5 ++ fieldFunct3 w ++ 0#5 ++ fieldOp w : BitVec 32) := mask_hi 0xfe0#12 w

theorem mask_fe007fff (w : Word) : w &&& 0xfe007fff#32 =
    ((fieldCsr w &&& 0xfe0#12) ++ 0#5 ++ fieldFunct3 w ++ fieldRd w ++ fieldOp w : BitVec 32) := by
  apply BitVec.eq_of_getLsbD_eq
  intro i hi
  interval_cases i <;>
    simp only [fieldCsr, fieldRd, BitVec.getLsbD_and, BitVec.getLsbD_append, BitVec.getLsbD_extractLsb'] <;> simp

/-- The high twelve bits of the R format under funct7's mask. -/
theorem hi_funct7 (f7 : BitVec 7) (rs2 : BitVec 5) : (f7 ++ rs2 : BitVec 12) &&& 0xfe0#12 = f7 ++ 0#5 := by
  apply BitVec.eq_of_getLsbD_eq
  intro i hi
  interval_cases i <;> simp only [BitVec.getLsbD_and, BitVec.getLsbD_append] <;> simp

/-- The high twelve bits of an atomic under funct5's mask. -/
theorem hi_funct5 (f5 : BitVec 5) (aq rl : BitVec 1) (rs2 : BitVec 5) :
    (f5 ++ aq ++ rl ++ rs2 : BitVec 12) &&& 0xf80#12 = f5 ++ 0#7 := by
  apply BitVec.eq_of_getLsbD_eq
  intro i hi
  interval_cases i <;> simp only [BitVec.getLsbD_and, BitVec.getLsbD_append] <;> simp

/-- The high twelve bits of LR.W under the mask of funct5 and rs2. -/
theorem hi_funct5_rs2 (f5 : BitVec 5) (aq rl : BitVec 1) (rs2 : BitVec 5) :
    (f5 ++ aq ++ rl ++ rs2 : BitVec 12) &&& 0xf9f#12 = f5 ++ 0#2 ++ rs2 := by
  apply BitVec.eq_of_getLsbD_eq
  intro i hi
  interval_cases i <;> simp only [BitVec.getLsbD_and, BitVec.getLsbD_append] <;> simp

/-- The high twelve bits of an immediate shift under the mask of w[31:26]. -/
theorem hi_funct6 (f6 : BitVec 6) (b25 : BitVec 1) (shamt : BitVec 5) :
    (f6 ++ b25 ++ shamt : BitVec 12) &&& 0xfc0#12 = f6 ++ 0#6 := by
  apply BitVec.eq_of_getLsbD_eq
  intro i hi
  interval_cases i <;> simp only [BitVec.getLsbD_and, BitVec.getLsbD_append] <;> simp

@[simp] theorem fieldOp_encodeU (imm : Word) : fieldOp (encodeU imm rd op) = op := by
  apply BitVec.eq_of_toNat_eq
  simp only [BitVec.extractLsb'_toNat, encodeU_toNat, Nat.shiftRight_eq_div_pow]
  omega

@[simp] theorem fieldRd_encodeU (imm : Word) : fieldRd (encodeU imm rd op) = rd := by
  apply BitVec.eq_of_toNat_eq
  simp only [fieldRd, BitVec.extractLsb'_toNat, encodeU_toNat, Nat.shiftRight_eq_div_pow]
  omega

@[simp] theorem fieldOp_encodeJ (imm : Word) : fieldOp (encodeJ imm rd op) = op := by
  apply BitVec.eq_of_toNat_eq
  simp only [BitVec.extractLsb'_toNat, encodeJ_toNat, Nat.shiftRight_eq_div_pow]
  omega

@[simp] theorem fieldRd_encodeJ (imm : Word) : fieldRd (encodeJ imm rd op) = rd := by
  apply BitVec.eq_of_toNat_eq
  simp only [fieldRd, BitVec.extractLsb'_toNat, encodeJ_toNat, Nat.shiftRight_eq_div_pow]
  omega

/-! ### Selecting a row -/

/-- No word matches two rows: each pair differs in a bit both masks fix (30_encoding.md R145). -/
theorem opcodeRows_disjoint :
    opcodeRows.Pairwise (fun a b => (a.bits ^^^ b.bits) &&& a.mask &&& b.mask ≠ 0#32) := by
  set_option maxRecDepth 20000 in decide

theorem find_of_pairwise {rows : List Row} (h : rows.Pairwise (fun a b => (a.bits ^^^ b.bits) &&& a.mask &&& b.mask ≠ 0#32))
    {r : Row} (hr : r ∈ rows) {w : Word} (hw : r.selects w = true) : rows.find? (fun r => r.selects w) = some r := by
  induction rows with
  | nil => cases hr
  | cons a rows ih =>
    obtain ⟨ha, hrows⟩ := List.pairwise_cons.1 h
    rcases List.mem_cons.1 hr with rfl | hr
    · simp [List.find?, hw]
    · have : a.selects w = false := by
        by_contra hc
        have hc : w &&& a.mask = a.bits := by simpa [Row.selects] using hc
        have hw' : w &&& r.mask = r.bits := by simpa [Row.selects] using hw
        refine ha r hr ?_
        rw [← hc, ← hw']
        apply BitVec.eq_of_getLsbD_eq
        intro i hi
        simp only [BitVec.getLsbD_and, BitVec.getLsbD_xor, BitVec.getLsbD_zero]
        cases w.getLsbD i <;> cases a.mask.getLsbD i <;> cases r.mask.getLsbD i <;> rfl
      simp only [List.find?, this]
      exact ih hrows hr

/-- The decoder reads a word by any row it selects. -/
theorem decode_of_row {r : Row} (hr : r ∈ opcodeRows) {w : Word} (hw : r.selects w = true) : decode w = .ok (r.read w) := by
  simp [decode, find_of_pairwise opcodeRows_disjoint hr hw]

/-- What decoding answers: the reading of a row the word selects, or the refusal of a word no row selects. -/
theorem decode_cases (w : Word) :
    (∃ r ∈ opcodeRows, r.selects w = true ∧ decode w = .ok (r.read w)) ∨
    ((∀ r ∈ opcodeRows, r.selects w = false) ∧ decode w = .error (.noTableRow w)) := by
  unfold decode
  cases h : opcodeRows.find? (fun r => r.selects w) with
  | none => exact .inr ⟨by simpa using h, rfl⟩
  | some r => exact .inl ⟨r, List.mem_of_find?_eq_some h, by simpa using List.find?_some h, rfl⟩

end Sys2Proof
end

