-- ==== Sys2Proof/Laws/Trap.lean ====
section
/-!
SUPPORT. Taking a trap: what delivery writes, field by field and CSR by CSR (60_exceptions.md R415, R416, R418), and
what taking an exception can answer.
-/
namespace Sys2Proof.Machine

variable (pos : Nat) (cause tval epc : Word) (s : State)

theorem deliver_m :
    deliver .m pos cause tval epc s =
      { (((s.setCsr csrMepc epc).setCsr csrMcause cause).setCsr csrMtval tval).setCsr csrMstatus
          (mstatusEnterM (s.csr csrMstatus) s.priv) with
        pc := trapVector (s.csr csrMtvec) pos, priv := .m
        reservation := if s.cfg.reservationClearedOnTrap then none else s.reservation } := rfl

theorem deliver_s :
    deliver .s pos cause tval epc s =
      { (((s.setCsr csrSepc epc).setCsr csrScause cause).setCsr csrStval tval).setCsr csrMstatus
          (mstatusEnterS (s.csr csrMstatus) s.priv) with
        pc := trapVector (s.csr csrStvec) pos, priv := .s
        reservation := if s.cfg.reservationClearedOnTrap then none else s.reservation } := rfl

/-- Delivery changes the CSR file, the pc, the mode and the reservation, and nothing else. -/
theorem deliver_eq (target : Priv) :
    deliver target pos cause tval epc s =
      { s with
        csrs := (deliver target pos cause tval epc s).csrs, pc := (deliver target pos cause tval epc s).pc,
        priv := (deliver target pos cause tval epc s).priv,
        reservation := if s.cfg.reservationClearedOnTrap then none else s.reservation } := by
  by_cases h : target = .m <;> simp only [deliver, h, if_true, if_false] <;> rfl

@[simp] theorem deliver_cfg (target : Priv) : (deliver target pos cause tval epc s).cfg = s.cfg := by rw [deliver_eq]
@[simp] theorem deliver_regs (target : Priv) : (deliver target pos cause tval epc s).regs = s.regs := by rw [deliver_eq]
@[simp] theorem deliver_clock (target : Priv) : (deliver target pos cause tval epc s).clock = s.clock := by rw [deliver_eq]
@[simp] theorem deliver_mmu (target : Priv) : (deliver target pos cause tval epc s).mmu = s.mmu := by rw [deliver_eq]
@[simp] theorem deliver_clint (target : Priv) : (deliver target pos cause tval epc s).clint = s.clint := by rw [deliver_eq]
@[simp] theorem deliver_uart (target : Priv) : (deliver target pos cause tval epc s).uart = s.uart := by rw [deliver_eq]
@[simp] theorem deliver_rtc (target : Priv) : (deliver target pos cause tval epc s).rtc = s.rtc := by rw [deliver_eq]
@[simp] theorem deliver_mem (target : Priv) : (deliver target pos cause tval epc s).mem = s.mem := by rw [deliver_eq]
@[simp] theorem deliver_host (target : Priv) : (deliver target pos cause tval epc s).host = s.host := by rw [deliver_eq]
@[simp] theorem deliver_raised (target : Priv) : (deliver target pos cause tval epc s).raised = s.raised := by rw [deliver_eq]
@[simp] theorem deliver_exited (target : Priv) : (deliver target pos cause tval epc s).exited = s.exited := by rw [deliver_eq]

theorem deliver_csrs_wf (h : Sparse.wf 0#32 s.csrs = true) (target : Priv) :
    Sparse.wf 0#32 (deliver target pos cause tval epc s).csrs = true := by
  have w : ∀ (a b c d : CsrAddr) (v1 v2 v3 v4 : Word),
      Sparse.wf 0#32 ((((s.setCsr a v1).setCsr b v2).setCsr c v3).setCsr d v4).csrs = true := fun a b c d v1 v2 v3 v4 =>
    State.wf_setCsr _ (State.wf_setCsr _ (State.wf_setCsr _ (State.wf_setCsr _ h a v1) b v2) c v3) d v4
  by_cases ht : target = .m
  · subst ht; rw [deliver_m]; exact w _ _ _ _ _ _ _ _
  · simp only [deliver, ht, if_false]; exact w _ _ _ _ _ _ _ _

/-- The CSRs after delivery to M. -/
theorem deliver_m_csr (h : Sparse.wf 0#32 s.csrs = true) (b : CsrAddr) :
    (deliver .m pos cause tval epc s).csr b =
      if b = csrMstatus then mstatusEnterM (s.csr csrMstatus) s.priv
      else if b = csrMtval then tval else if b = csrMcause then cause else if b = csrMepc then epc else s.csr b := by
  rw [deliver_m]
  have h1 := State.wf_setCsr s h csrMepc epc
  have h2 := State.wf_setCsr _ h1 csrMcause cause
  have h3 := State.wf_setCsr _ h2 csrMtval tval
  have e := State.csr_setCsr _ h3 csrMstatus (mstatusEnterM (s.csr csrMstatus) s.priv) b
  rw [State.csr_setCsr _ h2, State.csr_setCsr _ h1, State.csr_setCsr _ h] at e
  exact e

/-- The CSRs after delivery to S. -/
theorem deliver_s_csr (h : Sparse.wf 0#32 s.csrs = true) (b : CsrAddr) :
    (deliver .s pos cause tval epc s).csr b =
      if b = csrMstatus then mstatusEnterS (s.csr csrMstatus) s.priv
      else if b = csrStval then tval else if b = csrScause then cause else if b = csrSepc then epc else s.csr b := by
  rw [deliver_s]
  have h1 := State.wf_setCsr s h csrSepc epc
  have h2 := State.wf_setCsr _ h1 csrScause cause
  have h3 := State.wf_setCsr _ h2 csrStval tval
  have e := State.csr_setCsr _ h3 csrMstatus (mstatusEnterS (s.csr csrMstatus) s.priv) b
  rw [State.csr_setCsr _ h2, State.csr_setCsr _ h1, State.csr_setCsr _ h] at e
  exact e

/-- The target of a trap is M, S or refused. -/
theorem trapTarget_cases : trapTarget pos s = none ∨ trapTarget pos s = some .s ∨ trapTarget pos s = some .m := by
  unfold trapTarget
  repeat' split
  all_goals simp

/-- Taking an exception never faults; it answers the delivered state or the refusal of R414. -/
theorem takeException_cases (e : Exc) (tval : Word) :
    (trapTarget e.code s = none ∧ takeException e tval s = .refused .trapToUser) ∨
    ∃ p, (p = .s ∨ p = .m) ∧ trapTarget e.code s = some p ∧
      takeException e tval s = .next { deliver p e.code (BitVec.ofNat 32 e.code) tval s.pc s with raised := true } := by
  rcases trapTarget_cases e.code s with h | h | h
  · exact .inl ⟨h, by simp [takeException, h]⟩
  · exact .inr ⟨.s, .inl rfl, h, by simp [takeException, h]⟩
  · exact .inr ⟨.m, .inr rfl, h, by simp [takeException, h]⟩

/-- The delegation of a trap reads four CSRs only. -/
theorem trapTarget_congr {s t : State} (pos : Nat) (h : s.csrs = t.csrs) : trapTarget pos s = trapTarget pos t := by
  simp [trapTarget, State.csr, h]

/-- Without delegation a trap goes to M (60_exceptions.md R411). -/
theorem trapTarget_m (h : (s.csr csrMedeleg).getLsbD pos = false) (h' : (s.csr csrMideleg).getLsbD pos = false) :
    trapTarget pos s = some .m := by
  simp [trapTarget, h, h']

end Sys2Proof.Machine
end

