-- ==== Sys2Proof/Laws/Entry.lean ====
section
/-!
SUPPORT. The bits of mstatus after a delivery and after a return (60_exceptions.md R415, R416), the facts `EntersM` and
`EntersS` of every delivery, and when a trap goes to which mode.
-/
namespace Sys2Proof.Machine

theorem getLsbD_one_shift (n i k : Nat) : (1#n <<< k).getLsbD i = (decide (i < n) && decide (i = k) ) := by
  rw [BitVec.getLsbD_shiftLeft]
  by_cases h : i < n <;> by_cases h2 : i = k
  · subst h2; simp [h]; omega
  · by_cases h3 : i < k
    · simp [h,h2,h3]
    · have : i - k ≠ 0 := by omega
      simp [h, h2, h3, this]
  · simp [h]
  · simp [h]
/-- `putBit` sets one bit and keeps the rest. -/
theorem getLsbD_putBit {n : Nat} (v : BitVec n) (k : Nat) (b : Bool) (i : Nat) (hk : k < n) :
    (putBit v k b).getLsbD i = if i = k then b else v.getLsbD i := by
  cases b <;> simp only [putBit, if_true, if_false, Bool.false_eq_true]
  · rw [BitVec.getLsbD_and, BitVec.getLsbD_not, getLsbD_one_shift]
    by_cases h : i = k
    · subst h; simp [hk]
    · by_cases h2 : i < n
      · simp [h, h2]
      · simp [h, h2, BitVec.getLsbD_of_ge v i (by omega)]
  · rw [BitVec.getLsbD_or, getLsbD_one_shift]
    by_cases h : i = k
    · subst h; simp [hk]
    · simp [h]

/-- Every bit of mstatus after an entry to M. -/
theorem mstatusEnterM_bit (ms : Word) (p : Priv) (i : Nat) :
    (mstatusEnterM ms p).getLsbD i = if i = 3 then false else if i = 7 then ms.getLsbD 3 else if i = 11 then p.code.getLsbD 0
      else if i = 12 then p.code.getLsbD 1 else ms.getLsbD i := by
  by_cases hi : i < 32
  · simp only [mstatusEnterM, boolWord, BitVec.getLsbD_or, BitVec.getLsbD_and, BitVec.getLsbD_not, BitVec.getLsbD_shiftLeft, BitVec.getLsbD_setWidth]
    cases h : ms.getLsbD 3 <;> interval_cases i <;> simp
  · have : ∀ w : Word, w.getLsbD i = false := fun w => BitVec.getLsbD_of_ge _ _ (by omega)
    rw [this, this]; repeat' split
    all_goals first | omega | rfl
/-- Every bit of mstatus after an entry to S. -/
theorem mstatusEnterS_bit (ms : Word) (p : Priv) (i : Nat) :
    (mstatusEnterS ms p).getLsbD i = if i = 1 then false else if i = 5 then ms.getLsbD 1 else if i = 8 then decide (p ≠ .u)
      else ms.getLsbD i := by
  by_cases hi : i < 32
  · simp only [mstatusEnterS, boolWord, BitVec.getLsbD_or, BitVec.getLsbD_and, BitVec.getLsbD_not, BitVec.getLsbD_shiftLeft]
    cases h : ms.getLsbD 1 <;> by_cases hp : p = .u <;> simp only [hp] <;> interval_cases i <;> simp [hp]
  · have : ∀ w : Word, w.getLsbD i = false := fun w => BitVec.getLsbD_of_ge _ _ (by omega)
    rw [this, this]; repeat' split
    all_goals first | omega | rfl

theorem trapVector_eq (tvec : Word) (pos : Nat) : trapVector tvec pos = if tvec.extractLsb' 0 2 = 0#2 then tvec else (tvec &&& 0xFFFFFFFC#32) + BitVec.ofNat 32 (4 * pos) := by
  unfold trapVector; split
  · rfl
  · congr 1; apply BitVec.eq_of_toNat_eq; simp [BitVec.toNat_mul]

/-- A delivery to M does all that `EntersM` lists. -/
theorem deliver_entersM {s : State} (h : Sparse.wf 0#32 s.csrs = true) (pos : Nat) (cause tval epc : Word) :
    EntersM s (deliver .m pos cause tval epc s) pos cause tval epc where
  mepc := by rw [deliver_m_csr _ _ _ _ _ h]; rfl
  mcause := by rw [deliver_m_csr _ _ _ _ _ h]; rfl
  mtval := by rw [deliver_m_csr _ _ _ _ _ h]; rfl
  mpie := by rw [deliver_m_csr _ _ _ _ _ h, if_pos rfl, mstatusEnterM_bit]; rfl
  mpp := by
    rw [deliver_m_csr _ _ _ _ _ h, if_pos rfl]
    apply BitVec.eq_of_getLsbD_eq
    intro i hi
    rw [BitVec.getLsbD_extractLsb', mstatusEnterM_bit]
    interval_cases i <;> simp
  mie := by rw [deliver_m_csr _ _ _ _ _ h, if_pos rfl, mstatusEnterM_bit]; rfl
  mstatusRest := by
    intro i h3 h7 h11 h12
    rw [deliver_m_csr _ _ _ _ _ h, if_pos rfl, mstatusEnterM_bit, if_neg h3, if_neg h7, if_neg h11, if_neg h12]
  csrRest := by
    intro a h1 h2 h3 h4
    rw [deliver_m_csr _ _ _ _ _ h, if_neg h4, if_neg h3, if_neg h2, if_neg h1]
  mode := rfl
  vector := trapVector_eq _ _
  reservation := rfl
  rest := rfl

/-- A delivery to S does all that `EntersS` lists. -/
theorem deliver_entersS {s : State} (h : Sparse.wf 0#32 s.csrs = true) (pos : Nat) (cause tval epc : Word) :
    EntersS s (deliver .s pos cause tval epc s) pos cause tval epc where
  sepc := by rw [deliver_s_csr _ _ _ _ _ h]; rfl
  scause := by rw [deliver_s_csr _ _ _ _ _ h]; rfl
  stval := by rw [deliver_s_csr _ _ _ _ _ h]; rfl
  spie := by rw [deliver_s_csr _ _ _ _ _ h, if_pos rfl, mstatusEnterS_bit]; rfl
  spp := by rw [deliver_s_csr _ _ _ _ _ h, if_pos rfl, mstatusEnterS_bit]; rfl
  sie := by rw [deliver_s_csr _ _ _ _ _ h, if_pos rfl, mstatusEnterS_bit]; rfl
  mstatusRest := by
    intro i h3 h7 h11
    rw [deliver_s_csr _ _ _ _ _ h, if_pos rfl, mstatusEnterS_bit, if_neg h3, if_neg h7, if_neg h11]
  csrRest := by
    intro a h1 h2 h3 h4
    rw [deliver_s_csr _ _ _ _ _ h, if_neg h4, if_neg h3, if_neg h2, if_neg h1]
  mode := rfl
  vector := trapVector_eq _ _
  reservation := rfl
  rest := rfl

/-- No mode takes a delegated trap that the S-mode rule drops. -/
theorem trapTarget_none_iff (s : State) (pos : Nat) : trapTarget pos s = none ↔ Delegated s pos ∧ Demoted s pos := by
  unfold trapTarget Delegated Demoted
  split <;> rename_i h1
  · split <;> rename_i h2 <;> simp_all
  · simp_all
theorem trapTarget_s_iff (s : State) (pos : Nat) : trapTarget pos s = some .s ↔ Delegated s pos ∧ ¬ Demoted s pos := by
  unfold trapTarget Delegated Demoted
  split <;> rename_i h1
  · split <;> rename_i h2 <;> simp_all
  · simp_all
theorem trapTarget_m_iff (s : State) (pos : Nat) : trapTarget pos s = some .m ↔ GoesToM s pos := by
  unfold trapTarget GoesToM
  cases (s.csr csrMedeleg).getLsbD pos <;> cases (s.csr csrMideleg).getLsbD pos <;>
    cases (s.csr csrSedeleg).getLsbD pos <;> cases (s.csr csrSideleg).getLsbD pos <;> simp

/-- A refused exception is one that delegation would send to U. -/
theorem takeException_refused {e : Exc} {tval : Word} {s : State} {r : Refusal} (h : takeException e tval s = .refused r) :
    r = .trapToUser ∧ Delegated s e.code ∧ Demoted s e.code := by
  unfold takeException at h
  split at h
  · cases h; exact ⟨rfl, (trapTarget_none_iff s _).1 ‹_›⟩
  · cases h

/-- The access check of the CSR instructions fails exactly when the access is denied, `w` saying that it writes. -/
theorem csrAllowed_false_iff {kind : CsrKind} {field : BitVec 5} {w : Prop} (h : kind.writes field = true ↔ w)
    (csr : CsrAddr) (s : State) : csrAllowed kind field csr s.priv = false ↔ CsrDenied csr w s := by
  unfold csrAllowed csrPrivOk csrReadOnly CsrDenied
  rw [← h]
  cases kind.writes field <;> cases s.priv <;>
    simp [Priv.level, Priv.code, or_comm, imp_iff_not_or, Nat.pos_iff_ne_zero]

/-- Every bit of mstatus after MRET. -/
theorem mstatusMret_bit (ms : Word) (prev : Priv) (i : Nat) : (mstatusMret ms prev).getLsbD i =
   if i = 3 then ms.getLsbD 7 else if i = 7 then true else if i = 11 ∨ i = 12 then false else if i = 17 ∧ prev ≠ .m then false else ms.getLsbD i := by
  unfold mstatusMret
  simp only
  split <;> rename_i hp
  · rw [getLsbD_putBit _ _ _ _ (by omega), getLsbD_putBit _ _ _ _ (by omega), getLsbD_putBit _ _ _ _ (by omega), getLsbD_putBit _ _ _ _ (by omega)]
    repeat' split
    all_goals first | omega | simp_all
  · rw [getLsbD_putBit _ _ _ _ (by omega), getLsbD_putBit _ _ _ _ (by omega), getLsbD_putBit _ _ _ _ (by omega), getLsbD_putBit _ _ _ _ (by omega), getLsbD_putBit _ _ _ _ (by omega)]
    repeat' split
    all_goals first | omega | simp_all

/-- Every bit of mstatus after SRET. -/
theorem mstatusSret_bit (ms : Word) (i : Nat) : (mstatusSret ms).getLsbD i =
   if i = 1 then ms.getLsbD 5 else if i = 5 then true else if i = 8 ∨ i = 17 then false else ms.getLsbD i := by
  unfold mstatusSret
  simp only
  rw [getLsbD_putBit _ _ _ _ (by omega), getLsbD_putBit _ _ _ _ (by omega), getLsbD_putBit _ _ _ _ (by omega), getLsbD_putBit _ _ _ _ (by omega)]
  repeat' split
  all_goals first | omega | simp_all
end Sys2Proof.Machine
end

