-- ==== Sys2Proof/Laws/Translate.lean ====
section
/-!
SUPPORT. What translation does to the state (the UART at most) and when it does nothing at all.
-/
namespace Sys2Proof.Machine

/-- A walk changes the UART at most: by its own bus reads. -/
theorem walk_snd (va : Word) (acc : Access) (eff : BitVec 2) (s : State) :
    (walk va acc eff s).2 = { s with uart := (walk va acc eff s).2.uart } := by
  have h1 := busRead_snd 4 (pteAddr s.mmu.ppn (vpn1 va)) s
  generalize hp : busRead 4 (pteAddr s.mmu.ppn (vpn1 va)) s = p1 at h1
  obtain ⟨w1, s1⟩ := p1
  have h0 := busRead_snd 4 (pteAddr (ptePpn w1) (vpn0 va)) s1
  generalize hq : busRead 4 (pteAddr (ptePpn w1) (vpn0 va)) s1 = p0 at h0
  obtain ⟨w0, s0⟩ := p0
  simp only at h1 h0
  simp only [walk, hp, hq]
  repeat' split
  · exact h1
  · exact h1
  · rw [h0, h1]
  · rw [h0, h1]

/-- Translation changes the UART at most. -/
theorem translate_snd (va : Word) (acc : Access) (s : State) :
    (translate va acc s).2 = { s with uart := (translate va acc s).2.uart } := by
  unfold translate
  repeat' split
  · rfl
  · rfl
  · exact walk_snd va acc (effectivePriv acc s) s

@[simp] theorem translate_cfg (va : Word) (acc : Access) (s : State) : (translate va acc s).2.cfg = s.cfg := by
  rw [translate_snd]
@[simp] theorem translate_regs (va : Word) (acc : Access) (s : State) : (translate va acc s).2.regs = s.regs := by
  rw [translate_snd]
@[simp] theorem translate_pc (va : Word) (acc : Access) (s : State) : (translate va acc s).2.pc = s.pc := by
  rw [translate_snd]
@[simp] theorem translate_priv (va : Word) (acc : Access) (s : State) : (translate va acc s).2.priv = s.priv := by
  rw [translate_snd]
@[simp] theorem translate_clock (va : Word) (acc : Access) (s : State) : (translate va acc s).2.clock = s.clock := by
  rw [translate_snd]
@[simp] theorem translate_reservation (va : Word) (acc : Access) (s : State) : (translate va acc s).2.reservation = s.reservation := by
  rw [translate_snd]
@[simp] theorem translate_csrs (va : Word) (acc : Access) (s : State) : (translate va acc s).2.csrs = s.csrs := by
  rw [translate_snd]
@[simp] theorem translate_mmu (va : Word) (acc : Access) (s : State) : (translate va acc s).2.mmu = s.mmu := by
  rw [translate_snd]
@[simp] theorem translate_clint (va : Word) (acc : Access) (s : State) : (translate va acc s).2.clint = s.clint := by
  rw [translate_snd]
@[simp] theorem translate_rtc (va : Word) (acc : Access) (s : State) : (translate va acc s).2.rtc = s.rtc := by
  rw [translate_snd]
@[simp] theorem translate_mem (va : Word) (acc : Access) (s : State) : (translate va acc s).2.mem = s.mem := by
  rw [translate_snd]
@[simp] theorem translate_host (va : Word) (acc : Access) (s : State) : (translate va acc s).2.host = s.host := by
  rw [translate_snd]
@[simp] theorem translate_raised (va : Word) (acc : Access) (s : State) : (translate va acc s).2.raised = s.raised := by
  rw [translate_snd]
@[simp] theorem translate_exited (va : Word) (acc : Access) (s : State) : (translate va acc s).2.exited = s.exited := by
  rw [translate_snd]
@[simp] theorem translate_reg (va : Word) (acc : Access) (s : State) (r : Reg) : (translate va acc s).2.reg r = s.reg r := by
  rw [translate_snd]; rfl
@[simp] theorem translate_csr (va : Word) (acc : Access) (s : State) (a : CsrAddr) :
    (translate va acc s).2.csr a = s.csr a := by
  rw [translate_snd]; rfl

/-- With translation off an address is its own translation (20_memory.md R111). -/
theorem translate_off {s : State} (h : s.mmu.mode = .off) (va : Word) (acc : Access) : translate va acc s = (some va, s) := by
  simp [translate, h]

/-- M fetches untranslated (20_memory.md R111). -/
theorem translate_fetch_m {s : State} (h : s.priv = .m) (va : Word) : translate va .fetch s = (some va, s) := by
  unfold translate
  split
  · rfl
  · simp [h]

/-- Sv32 on and no bypass: the walk (20_memory.md R110). -/
theorem translate_walk {s : State} {acc : Access} (hm : s.mmu.mode = .sv32) (he : effectivePriv acc s ≠ 3#2)
    (hf : ¬ (s.priv = .m ∧ acc = .fetch)) (va : Word) : translate va acc s = walk va acc (effectivePriv acc s) s := by
  unfold translate
  rw [if_neg (by rw [hm]; decide), if_neg (by tauto)]

/-- A fetch never uses MPRV: its effective privilege is the mode (20_memory.md R111). -/
theorem effectivePriv_fetch (s : State) : effectivePriv .fetch s = s.priv.code := by simp [effectivePriv]

end Sys2Proof.Machine
end

