-- ==== Sys2Proof/Laws/Tick.lean ====
section
/-!
SUPPORT. What the device step of a tick changes, that it keeps the canonical forms, and that it commutes with the
delivery of an exception: taking the exception inside the instruction and moving the devices afterwards is the order of
70_reset_and_hazards.md R501 (log 7).
-/
namespace Sys2Proof.Machine

/-! ### The CLINT and the UART in a tick -/

theorem clintTick_eq (s : State) :
    clintTick s = { s with csrs := (clintTick s).csrs, clint := { s.clint with mtime := s.clint.mtime + 1#64 } } := by
  unfold clintTick softwareIrq
  split <;> (unfold timerIrq; split <;> rfl)

theorem uartTransmit_eq (s : State) :
    uartTransmit s = { s with uart := (uartTransmit s).uart, host := { s.host with events := (uartTransmit s).host.events } } := by
  unfold uartTransmit
  split <;> rfl

theorem uartReceive_eq (s : State) :
    uartReceive s = { s with uart := (uartReceive s).uart, host := { s.host with draws := (uartReceive s).host.draws } } := by
  unfold uartReceive
  generalize Config.uartIn s.host.draws = d
  split
  · cases d <;> rfl
  · rfl

theorem uartIrq_eq (s : State) : uartIrq s = { s with csrs := (uartIrq s).csrs } := by
  unfold uartIrq
  split <;> rfl

/-- The device step changes mip, the CLINT's mtime, the UART and the host port, and nothing else. -/
theorem deviceTick_eq (s : State) :
    deviceTick s =
      { s with
        csrs := (deviceTick s).csrs, clint := { s.clint with mtime := s.clint.mtime + 1#64 }, uart := (deviceTick s).uart,
        host := (deviceTick s).host } := by
  unfold deviceTick
  rw [uartIrq_eq, uartReceive_eq, uartTransmit_eq, clintTick_eq]

@[simp] theorem deviceTick_cfg (s : State) : (deviceTick s).cfg = s.cfg := by rw [deviceTick_eq]
@[simp] theorem deviceTick_regs (s : State) : (deviceTick s).regs = s.regs := by rw [deviceTick_eq]
@[simp] theorem deviceTick_pc (s : State) : (deviceTick s).pc = s.pc := by rw [deviceTick_eq]
@[simp] theorem deviceTick_priv (s : State) : (deviceTick s).priv = s.priv := by rw [deviceTick_eq]
@[simp] theorem deviceTick_clock (s : State) : (deviceTick s).clock = s.clock := by rw [deviceTick_eq]
@[simp] theorem deviceTick_reservation (s : State) : (deviceTick s).reservation = s.reservation := by rw [deviceTick_eq]
@[simp] theorem deviceTick_mmu (s : State) : (deviceTick s).mmu = s.mmu := by rw [deviceTick_eq]
@[simp] theorem deviceTick_rtc (s : State) : (deviceTick s).rtc = s.rtc := by rw [deviceTick_eq]
@[simp] theorem deviceTick_mem (s : State) : (deviceTick s).mem = s.mem := by rw [deviceTick_eq]
@[simp] theorem deviceTick_raised (s : State) : (deviceTick s).raised = s.raised := by rw [deviceTick_eq]
@[simp] theorem deviceTick_exited (s : State) : (deviceTick s).exited = s.exited := by rw [deviceTick_eq]
@[simp] theorem deviceTick_reg (s : State) (r : Reg) : (deviceTick s).reg r = s.reg r := by rw [deviceTick_eq]; rfl
@[simp] theorem deviceTick_clint (s : State) : (deviceTick s).clint = { s.clint with mtime := s.clint.mtime + 1#64 } := by
  rw [deviceTick_eq]

theorem timerIrq_csrs_wf {s : State} (h : Sparse.wf 0#32 s.csrs = true) : Sparse.wf 0#32 (timerIrq s).csrs = true := by
  unfold timerIrq
  split
  · exact Sparse.wf_write h _ _
  · exact h

theorem softwareIrq_csrs_wf {s : State} (h : Sparse.wf 0#32 s.csrs = true) :
    Sparse.wf 0#32 (softwareIrq s).csrs = true := by
  unfold softwareIrq
  split
  · exact Sparse.wf_write h _ _
  · exact h

theorem clintTick_csrs_wf {s : State} (h : Sparse.wf 0#32 s.csrs = true) : Sparse.wf 0#32 (clintTick s).csrs = true :=
  softwareIrq_csrs_wf (timerIrq_csrs_wf (s := mtimeTick s) h)

theorem uartIrq_csrs_wf {s : State} (h : Sparse.wf 0#32 s.csrs = true) : Sparse.wf 0#32 (uartIrq s).csrs = true := by
  unfold uartIrq
  split
  · exact Sparse.wf_write h _ _
  · exact h

theorem deviceTick_csrs_wf {s : State} (h : Sparse.wf 0#32 s.csrs = true) : Sparse.wf 0#32 (deviceTick s).csrs = true := by
  refine uartIrq_csrs_wf (s := uartReceive (uartTransmit (clintTick s))) ?_
  rw [uartReceive_eq, uartTransmit_eq]
  exact clintTick_csrs_wf h

/-- Of the CSR array the device step changes mip only. -/
theorem deviceTick_csr {s : State} (h : Sparse.wf 0#32 s.csrs = true) {a : CsrAddr} (ha : a ≠ csrMip) :
    (deviceTick s).csr a = s.csr a := by
  have mip : ∀ (t : State) (p : Nat) (b : Bool), Sparse.wf 0#32 t.csrs = true → (t.setMip p b).csr a = t.csr a :=
    fun t p b ht => by rw [State.csr_setMip t ht, if_neg ha]
  have ht : (timerIrq (mtimeTick s)).csr a = s.csr a := by
    unfold timerIrq
    split
    · exact mip _ _ _ h
    · rfl
  have hc : (clintTick s).csr a = s.csr a := by
    unfold clintTick softwareIrq
    split
    · rw [mip _ _ _ (timerIrq_csrs_wf (s := mtimeTick s) h)]; exact ht
    · exact ht
  have hu : (uartReceive (uartTransmit (clintTick s))).csr a = s.csr a := by
    rw [uartReceive_eq, uartTransmit_eq]; exact hc
  have hw : Sparse.wf 0#32 (uartReceive (uartTransmit (clintTick s))).csrs = true := by
    rw [uartReceive_eq, uartTransmit_eq]; exact clintTick_csrs_wf h
  show (uartIrq (uartReceive (uartTransmit (clintTick s)))).csr a = s.csr a
  unfold uartIrq
  split
  · rw [mip _ _ _ hw]; exact hu
  · exact hu

/-! ### The device step and the delivery of an exception commute -/

section commute

variable (target : Priv) (pos : Nat) (cause tval epc : Word)

/-- Delivery writes none of what a mip update reads or writes. -/
theorem deliver_setMip {s : State} (h : Sparse.wf 0#32 s.csrs = true) (p : Nat) (b : Bool) :
    deliver target pos cause tval epc (s.setMip p b) = (deliver target pos cause tval epc s).setMip p b := by
  have hmip : ∀ a : CsrAddr, a ≠ csrMip → (s.setMip p b).csr a = s.csr a := fun a ha => by
    rw [State.csr_setMip s h, if_neg ha]
  have hpc : (deliver target pos cause tval epc (s.setMip p b)).pc = (deliver target pos cause tval epc s).pc := by
    by_cases ht : target = .m
    · subst ht; rw [deliver_m, deliver_m]; simp only; rw [hmip csrMtvec (by decide)]
    · simp only [deliver, ht, if_false]; rw [hmip csrStvec (by decide)]
  have hpriv : (deliver target pos cause tval epc (s.setMip p b)).priv = (deliver target pos cause tval epc s).priv := by
    by_cases ht : target = .m <;> simp only [deliver, ht, if_true, if_false]
  have hcsrs : (deliver target pos cause tval epc (s.setMip p b)).csrs
      = ((deliver target pos cause tval epc s).setMip p b).csrs := by
    refine Sparse.ext (d := 0#32) (deliver_csrs_wf pos cause tval epc _ (State.wf_setMip s h p b) target)
      (State.wf_setMip _ (deliver_csrs_wf pos cause tval epc s h target) p b) (fun a => ?_)
    have comm : ∀ (m : CsrFile) (a : Nat) (v : Word), Sparse.wf 0#32 m = true → a ≠ csrMip.toNat → ∀ w : Word,
        Sparse.write 0#32 (Sparse.write 0#32 m csrMip.toNat w) a v
          = Sparse.write 0#32 (Sparse.write 0#32 m a v) csrMip.toNat w := fun m a v hm ha w =>
      Sparse.write_comm hm (fun e => ha e.symm) w v
    by_cases ht : target = .m
    · subst ht
      rw [deliver_m, deliver_m]
      simp only [State.setMip, State.csr, State.setCsr]
      rw [Sparse.read_write h, if_neg (by decide : ¬ csrMstatus.toNat = csrMip.toNat), comm _ _ _ h (by decide),
        comm _ _ _ (Sparse.wf_write h _ _) (by decide), comm _ _ _ (Sparse.wf_write (Sparse.wf_write h _ _) _ _) (by decide),
        comm _ _ _ (Sparse.wf_write (Sparse.wf_write (Sparse.wf_write h _ _) _ _) _ _) (by decide)]
      rw [Sparse.read_write (Sparse.wf_write (Sparse.wf_write (Sparse.wf_write h _ _) _ _) _ _) csrMstatus.toNat,
        if_neg (by decide : ¬ csrMip.toNat = csrMstatus.toNat), Sparse.read_write (Sparse.wf_write (Sparse.wf_write h _ _) _ _) csrMtval.toNat,
        if_neg (by decide : ¬ csrMip.toNat = csrMtval.toNat), Sparse.read_write (Sparse.wf_write h _ _) csrMcause.toNat,
        if_neg (by decide : ¬ csrMip.toNat = csrMcause.toNat), Sparse.read_write h csrMepc.toNat,
        if_neg (by decide : ¬ csrMip.toNat = csrMepc.toNat)]
    · simp only [deliver, ht, if_false]
      simp only [State.setMip, State.csr, State.setCsr]
      rw [Sparse.read_write h, if_neg (by decide : ¬ csrMstatus.toNat = csrMip.toNat), comm _ _ _ h (by decide),
        comm _ _ _ (Sparse.wf_write h _ _) (by decide), comm _ _ _ (Sparse.wf_write (Sparse.wf_write h _ _) _ _) (by decide),
        comm _ _ _ (Sparse.wf_write (Sparse.wf_write (Sparse.wf_write h _ _) _ _) _ _) (by decide)]
      rw [Sparse.read_write (Sparse.wf_write (Sparse.wf_write (Sparse.wf_write h _ _) _ _) _ _) csrMstatus.toNat,
        if_neg (by decide : ¬ csrMip.toNat = csrMstatus.toNat), Sparse.read_write (Sparse.wf_write (Sparse.wf_write h _ _) _ _) csrStval.toNat,
        if_neg (by decide : ¬ csrMip.toNat = csrStval.toNat), Sparse.read_write (Sparse.wf_write h _ _) csrScause.toNat,
        if_neg (by decide : ¬ csrMip.toNat = csrScause.toNat), Sparse.read_write h csrSepc.toNat,
        if_neg (by decide : ¬ csrMip.toNat = csrSepc.toNat)]
  rw [deliver_eq]
  rw [hcsrs, hpc, hpriv]
  conv_rhs => rw [show (deliver target pos cause tval epc s).setMip p b
    = { deliver target pos cause tval epc s with csrs := ((deliver target pos cause tval epc s).setMip p b).csrs } from rfl,
    deliver_eq]
  rfl

/-- Delivery neither reads nor writes the CLINT, the UART or the host port. -/
theorem deliver_devices (s : State) (c : Clint) (u : Uart) (p : HostPort) :
    deliver target pos cause tval epc { s with clint := c, uart := u, host := p }
      = { deliver target pos cause tval epc s with clint := c, uart := u, host := p } := by
  by_cases h : target = .m <;> simp only [deliver, h, if_true, if_false] <;> rfl

theorem deliver_mtimeTick (s : State) :
    deliver target pos cause tval epc (mtimeTick s) = mtimeTick (deliver target pos cause tval epc s) := by
  have := deliver_devices target pos cause tval epc s { s.clint with mtime := s.clint.mtime + 1#64 } s.uart s.host
  simp only [mtimeTick, deliver_clint]
  refine this.trans ?_
  rw [← deliver_uart pos cause tval epc s target, ← deliver_host pos cause tval epc s target]

theorem deliver_timerIrq {s : State} (h : Sparse.wf 0#32 s.csrs = true) :
    deliver target pos cause tval epc (timerIrq s) = timerIrq (deliver target pos cause tval epc s) := by
  simp only [timerIrq, deliver_clint]
  split
  · exact deliver_setMip target pos cause tval epc h 7 true
  · rfl

theorem deliver_softwareIrq {s : State} (h : Sparse.wf 0#32 s.csrs = true) :
    deliver target pos cause tval epc (softwareIrq s) = softwareIrq (deliver target pos cause tval epc s) := by
  simp only [softwareIrq, deliver_clint]
  split
  · exact deliver_setMip target pos cause tval epc h 3 true
  · rfl

theorem deliver_uartTransmit (s : State) :
    deliver target pos cause tval epc (uartTransmit s) = uartTransmit (deliver target pos cause tval epc s) := by
  simp only [uartTransmit, deliver_clock, deliver_uart, State.emit, deliver_host]
  split
  · refine (deliver_devices target pos cause tval epc s s.clint _ _).trans ?_
    simp only [deliver_clock, deliver_clint]
  · rfl

theorem deliver_uartReceive (s : State) :
    deliver target pos cause tval epc (uartReceive s) = uartReceive (deliver target pos cause tval epc s) := by
  simp only [uartReceive, deliver_clock, deliver_uart, deliver_host]
  generalize Config.uartIn s.host.draws = d
  split
  · cases d with
    | none =>
      refine (deliver_devices target pos cause tval epc s s.clint s.uart _).trans ?_
      simp only [deliver_clock, deliver_clint]
    | some b =>
      refine (deliver_devices target pos cause tval epc s s.clint _ _).trans ?_
      simp only [deliver_clock, deliver_clint]
  · rfl

theorem deliver_uartIrq {s : State} (h : Sparse.wf 0#32 s.csrs = true) :
    deliver target pos cause tval epc (uartIrq s) = uartIrq (deliver target pos cause tval epc s) := by
  simp only [uartIrq, deliver_uart]
  split
  · exact deliver_setMip target pos cause tval epc h 9 true
  · rfl

/-- Delivering an exception and moving the devices commute: R501's order (devices, then trap) and the model's order
(trap inside the instruction, then devices) give the same state. -/
theorem deliver_deviceTick {s : State} (h : Sparse.wf 0#32 s.csrs = true) :
    deliver target pos cause tval epc (deviceTick s) = deviceTick (deliver target pos cause tval epc s) := by
  have h1 : Sparse.wf 0#32 (clintTick s).csrs = true := clintTick_csrs_wf h
  have h2 : Sparse.wf 0#32 (uartReceive (uartTransmit (clintTick s))).csrs = true := by
    rw [uartReceive_eq, uartTransmit_eq]; exact h1
  rw [deviceTick, deliver_uartIrq _ _ _ _ _ h2, deliver_uartReceive, deliver_uartTransmit, clintTick,
    deliver_softwareIrq _ _ _ _ _ (timerIrq_csrs_wf (s := mtimeTick s) h), deliver_timerIrq _ _ _ _ _ (s := mtimeTick s) h,
    deliver_mtimeTick]
  rfl

/-- The target of a trap is the same before and after the device step. -/
theorem trapTarget_deviceTick {s : State} (h : Sparse.wf 0#32 s.csrs = true) :
    trapTarget pos (deviceTick s) = trapTarget pos s := by
  simp only [trapTarget, deviceTick_csr h (by decide : csrMedeleg ≠ csrMip), deviceTick_csr h (by decide : csrMideleg ≠ csrMip),
    deviceTick_csr h (by decide : csrSedeleg ≠ csrMip), deviceTick_csr h (by decide : csrSideleg ≠ csrMip)]

end commute

/-! ### The other parts of a tick -/

/-- A received frame keeps the memory's canonical form. -/
theorem receive_wf (bytes : List (Fin 4096 × Byte)) {m : Memory} (h : m.wf = true) :
    (bytes.foldl (fun mem c => Memory.write mem (0x11001000 + c.1.val) c.2) m).wf = true := by
  induction bytes generalizing m with
  | nil => exact h
  | cons c bytes ih => exact ih (Memory.wf_write h _ _)

/-- A storage byte after a received frame: the last byte of the frame at that place, or what was there. -/
theorem receive_read (bytes : List (Fin 4096 × Byte)) {m : Memory} (h : m.wf = true) (a : Nat) :
    (bytes.foldl (fun mem c => Memory.write mem (0x11001000 + c.1.val) c.2) m).read a =
      match bytes.reverse.find? (fun c => decide (0x11001000 + c.1.val = a)) with
      | some c => c.2
      | none => m.read a := by
  induction bytes generalizing m with
  | nil => rfl
  | cons c bytes ih =>
    rw [List.foldl_cons, ih (Memory.wf_write h _ _), List.reverse_cons, List.find?_append]
    cases List.find? (fun c => decide (0x11001000 + c.1.val = a)) bytes.reverse with
    | some d => rfl
    | none =>
      simp only [Option.none_or, List.find?_cons, List.find?_nil, Memory.read_write h]
      by_cases e : 0x11001000 + c.1.val = a
      · simp [e]
      · simp [e, Ne.symm e]

/-- The first step of the tick: the host's move changes the RX buffer, mip and the inbox at most; the clock goes on by
one. -/
theorem beginTick_eq (s : State) :
    beginTick s =
      { s with
        clock := s.clock + 1#32, raised := false, csrs := (beginTick s).csrs, mem := (beginTick s).mem,
        host := { s.host with inbox := s.host.inbox.tail } } := by
  unfold beginTick takeHostMove
  cases h : s.host.inbox with
  | nil =>
    obtain ⟨cfg, regs, pc, priv, clock, res, csrs, mmu, clint, uart, rtc, mem, ⟨draws, events, inbox⟩, raised, exited⟩ := s
    simp only at h; subst h; rfl
  | cons m rest =>
    simp only [hostMove]
    cases m with
    | idle => rfl
    | receive bytes seip => cases seip <;> rfl

/-- With nothing in the inbox the first step advances the clock, and no trap is under way. -/
theorem beginTick_idle {s : State} (h : s.host.inbox = []) : beginTick s = { s with clock := s.clock + 1#32, raised := false } := by
  simp [beginTick, takeHostMove, h]

/-- A fetch changes the UART at most. -/
theorem fetch_snd (s : State) : (fetch s).2 = { s with uart := (fetch s).2.uart } := by
  have ht := translate_snd s.pc .fetch s
  unfold fetch
  split
  · rfl
  · generalize translate s.pc .fetch s = p at ht ⊢
    obtain ⟨o, s1⟩ := p
    simp only at ht
    cases o with
    | none => exact ht
    | some pa =>
      have hb := busRead_snd 4 pa s1
      simp only
      generalize busRead 4 pa s1 = q at hb ⊢
      obtain ⟨w, s2⟩ := q
      simp only at hb ⊢
      cases decode w with
      | ok i => simp only; rw [hb, ht]
      | error e => simp only; rw [hb, ht]

end Sys2Proof.Machine
end

