-- ==== Sys2Proof/Laws/Ops.lean ====
section
/-!
SUPPORT. One spec lemma per shared operation of the meanings and of the tick: everything it can answer.
-/
namespace Sys2Proof.Machine

/-! ### Register writes -/

theorem retire_eq (rd : Reg) (v : Word) (s : State) : retire rd v s = .next (s.setReg rd v).advance := rfl

/-- The state an instruction leaves that writes rd and goes on. -/
theorem setReg_retiresTo (rd : Reg) (v next : Word) (s : State) :
    RetiresTo s { s.setReg rd v with pc := next } rd v next :=
  ⟨rfl, fun r => State.reg_setReg s rd v r, fun _ => rfl⟩

theorem retire_retiresTo (rd : Reg) (v : Word) (s : State) :
    ∃ t, retire rd v s = .next t ∧ RetiresTo s t rd v (s.pc + 4#32) :=
  ⟨_, rfl, setReg_retiresTo rd v (s.pc + 4#32) s⟩

/-! ### Memory instructions -/

theorem loadOp_fault {n : Nat} {ext : Word → Word} {rd : Reg} {addr : Word} {s : State}
    (h : (translate addr .read s).1 = none) :
    loadOp n ext rd addr s = takeException .loadPageFault addr (translate addr .read s).2 := by
  unfold loadOp
  generalize translate addr .read s = p at h
  obtain ⟨o, s1⟩ := p
  simp only at h; subst h; rfl

theorem loadOp_hit {n : Nat} {ext : Word → Word} {rd : Reg} {addr pa : Word} {s : State}
    (h : (translate addr .read s).1 = some pa) :
    loadOp n ext rd addr s =
      retire rd (ext (busRead n pa (translate addr .read s).2).1) (busRead n pa (translate addr .read s).2).2 := by
  unfold loadOp
  generalize translate addr .read s = p at h
  obtain ⟨o, s1⟩ := p
  simp only at h; subst h; rfl

theorem storeOp_fault {n : Nat} {v addr : Word} {s : State} (h : (translate addr .write s).1 = none) :
    storeOp n v addr s = takeException .storePageFault addr (translate addr .write s).2 := by
  unfold storeOp
  generalize translate addr .write s = p at h
  obtain ⟨o, s1⟩ := p
  simp only at h; subst h; rfl

theorem storeOp_hit {n : Nat} {v addr pa : Word} {s : State} (h : (translate addr .write s).1 = some pa) :
    storeOp n v addr s = .next (busWrite n pa v (translate addr .write s).2).advance := by
  unfold storeOp
  generalize translate addr .write s = p at h
  obtain ⟨o, s1⟩ := p
  simp only at h; subst h; rfl

theorem amoOp_fault {op : Word → Word → Word} {rd rs1 rs2 : Reg} {s : State}
    (h : (translate (s.reg rs1) .write s).1 = none) :
    amoOp op rd rs1 rs2 s = takeException .storePageFault (s.reg rs1) (translate (s.reg rs1) .write s).2 := by
  unfold amoOp
  generalize translate (s.reg rs1) .write s = p at h
  obtain ⟨o, s1⟩ := p
  simp only at h; subst h; rfl

theorem amoOp_hit {op : Word → Word → Word} {rd rs1 rs2 : Reg} {pa : Word} {s : State}
    (h : (translate (s.reg rs1) .write s).1 = some pa) :
    amoOp op rd rs1 rs2 s =
      retire rd (busRead 4 pa (translate (s.reg rs1) .write s).2).1
        (busWrite 4 pa (op (busRead 4 pa (translate (s.reg rs1) .write s).2).1 (s.reg rs2))
          (busRead 4 pa (translate (s.reg rs1) .write s).2).2) := by
  unfold amoOp
  generalize translate (s.reg rs1) .write s = p at h
  obtain ⟨o, s1⟩ := p
  simp only at h; subst h; rfl

/-! ### CSR instructions -/

theorem csrOp_denied {kind : CsrKind} {w : Word} {rd : Reg} {field : BitVec 5} {src : Word} {csr : CsrAddr} {s : State}
    (h : csrAllowed kind field csr s.priv = false) :
    csrOp kind w rd field src csr s = takeException .illegalInstruction w s := by
  simp [csrOp, h]

theorem csrOp_allowed {kind : CsrKind} {w : Word} {rd : Reg} {field : BitVec 5} {src : Word} {csr : CsrAddr} {s : State}
    (h : csrAllowed kind field csr s.priv = true) :
    csrOp kind w rd field src csr s =
      retire rd (csrRead csr s).1
        (if kind.writes field then csrWrite csr (kind.combine (csrRead csr s).1 src) (csrRead csr s).2
          else (csrRead csr s).2) := by
  simp [csrOp, h]

/-! ### The end of a tick -/

theorem resolveInterrupt_none {s : State} (h : interruptCandidate s = none) : resolveInterrupt s = .next s := by
  simp [resolveInterrupt, h]

theorem resolveInterrupt_some {s : State} {p : Nat} (h : interruptCandidate s = some p) :
    (trapTarget p s = none ∧ resolveInterrupt s = .refused .trapToUser) ∨
    ∃ q, (q = .s ∨ q = .m) ∧ trapTarget p s = some q ∧
      ((interruptMasked q s = true ∧ resolveInterrupt s = .next s) ∨
        (interruptMasked q s = false ∧ resolveInterrupt s = .next (deliverInterrupt q p s))) := by
  rcases trapTarget_cases p s with ht | ht | ht
  · exact .inl ⟨ht, by simp [resolveInterrupt, h, ht]⟩
  · refine .inr ⟨.s, .inl rfl, ht, ?_⟩
    cases hm : interruptMasked .s s <;> simp [resolveInterrupt, h, ht, hm]
  · refine .inr ⟨.m, .inr rfl, ht, ?_⟩
    cases hm : interruptMasked .m s <;> simp [resolveInterrupt, h, ht, hm]

/-- A candidate is one of the six interrupts (60_exceptions.md R410). -/
theorem interruptCandidate_mem {s : State} {p : Nat} (h : interruptCandidate s = some p) :
    p ∈ [11, 3, 7, 9, 1, 5] ∧ (s.csr csrMip &&& s.csr csrMie).getLsbD p = true := by
  unfold interruptCandidate at h
  exact ⟨List.mem_of_find?_eq_some h, by simpa using List.find?_some h⟩

theorem finishTick_exited {s : State} (h : s.exited.isSome = true) : finishTick s = .next s := by
  simp [finishTick, h]

theorem finishTick_raised {s : State} (h : s.exited = none) (hr : s.raised = true) :
    finishTick s = .next { deviceTick s with raised := false } := by
  simp [finishTick, h, hr]

theorem finishTick_retired {s : State} (h : s.exited = none) (hr : s.raised = false) :
    finishTick s = resolveInterrupt (deviceTick s) := by
  simp [finishTick, h, hr]

/-! ### The step -/

theorem step_ended {s : State} (h : s.exited.isSome = true) : step s = .fault .runEnded := by
  unfold step
  cases he : s.exited with
  | none => simp [he] at h
  | some v => rfl

theorem step_running {s : State} (h : s.exited = none) : step s = endTick (runFetched (fetch (beginTick s))) := by
  simp [step, h]

/-- If a tick answers a next state, its instruction did, and the tick's end answered that state. -/
theorem step_next {s t : State} (h : step s = .next t) :
    s.exited = none ∧ ∃ u, runFetched (fetch (beginTick s)) = .next u ∧ finishTick u = .next t := by
  unfold step at h
  cases he : s.exited with
  | some v => simp [he] at h
  | none =>
    simp only [he] at h
    refine ⟨rfl, ?_⟩
    cases hr : runFetched (fetch (beginTick s)) with
    | next u => rw [hr] at h; exact ⟨u, rfl, h⟩
    | fault f => rw [hr] at h; simp [endTick] at h
    | refused r => rw [hr] at h; simp [endTick] at h

end Sys2Proof.Machine
end

