-- ==== Sys2Proof/Laws/PerInstr.lean ====
section
/-!
SUPPORT. The per-instruction family TableRow: every instruction's word is selected by a row of the opcode table
(30_encoding.md R145, R147), one lemma per constructor.
-/
namespace Sys2Proof

/-- A row of the table, by its place, selects the word. -/
theorem row_selects {w : Word} (k : Nat) (hk : k < opcodeRows.length) (h : (opcodeRows[k]).selects w = true) :
    ∃ r ∈ opcodeRows, r.selects w = true := ⟨opcodeRows[k], List.getElem_mem hk, h⟩

/-- A row is selected when the masked word is its pattern. -/
theorem selects_of_eq {r : Row} {w : Word} (h : w &&& r.mask = r.bits) : r.selects w = true := by
  simp [Row.selects, h]

end Sys2Proof

namespace Sys2Proof.Laws.TableRow

/-- The instruction's word is selected by a row of the opcode table. -/
def Statement (i : Instr) : Prop := ∃ r ∈ opcodeRows, r.selects (encode i) = true

theorem lui (rd : Reg) (imm : Word) : Statement (.lui rd imm) :=
  row_selects 1 (by decide) (selects_of_eq (by
    show encode (.lui rd imm) &&& 0x0000007f#32 = 0x00000037#32
    simp only [encode, mask_7f, fieldOp_encodeU]
    decide))
theorem auipc (rd : Reg) (imm : Word) : Statement (.auipc rd imm) :=
  row_selects 0 (by decide) (selects_of_eq (by
    show encode (.auipc rd imm) &&& 0x0000007f#32 = 0x00000017#32
    simp only [encode, mask_7f, fieldOp_encodeU]
    decide))
theorem jal (rd : Reg) (imm : Word) : Statement (.jal rd imm) :=
  row_selects 2 (by decide) (selects_of_eq (by
    show encode (.jal rd imm) &&& 0x0000007f#32 = 0x0000006f#32
    simp only [encode, mask_7f, fieldOp_encodeJ]
    decide))
theorem jalr (rd rs1 : Reg) (imm : Word) : Statement (.jalr rd rs1 imm) :=
  row_selects 4 (by decide) (selects_of_eq (by
    show encode (.jalr rd rs1 imm) &&& 0x0000707f#32 = 0x00000067#32
    simp only [encode, encodeI, mask_707f, fieldOp_encodeRaw, fieldFunct3_encodeRaw]
    decide))
theorem beq (rs1 rs2 : Reg) (imm : Word) : Statement (.beq rs1 rs2 imm) :=
  row_selects 3 (by decide) (selects_of_eq (by
    show encode (.beq rs1 rs2 imm) &&& 0x0000707f#32 = 0x00000063#32
    simp only [encode, encodeB_raw, mask_707f, fieldOp_encodeRaw, fieldFunct3_encodeRaw]
    decide))
theorem bne (rs1 rs2 : Reg) (imm : Word) : Statement (.bne rs1 rs2 imm) :=
  row_selects 5 (by decide) (selects_of_eq (by
    show encode (.bne rs1 rs2 imm) &&& 0x0000707f#32 = 0x00001063#32
    simp only [encode, encodeB_raw, mask_707f, fieldOp_encodeRaw, fieldFunct3_encodeRaw]
    decide))
theorem blt (rs1 rs2 : Reg) (imm : Word) : Statement (.blt rs1 rs2 imm) :=
  row_selects 6 (by decide) (selects_of_eq (by
    show encode (.blt rs1 rs2 imm) &&& 0x0000707f#32 = 0x00004063#32
    simp only [encode, encodeB_raw, mask_707f, fieldOp_encodeRaw, fieldFunct3_encodeRaw]
    decide))
theorem bge (rs1 rs2 : Reg) (imm : Word) : Statement (.bge rs1 rs2 imm) :=
  row_selects 7 (by decide) (selects_of_eq (by
    show encode (.bge rs1 rs2 imm) &&& 0x0000707f#32 = 0x00005063#32
    simp only [encode, encodeB_raw, mask_707f, fieldOp_encodeRaw, fieldFunct3_encodeRaw]
    decide))
theorem bltu (rs1 rs2 : Reg) (imm : Word) : Statement (.bltu rs1 rs2 imm) :=
  row_selects 8 (by decide) (selects_of_eq (by
    show encode (.bltu rs1 rs2 imm) &&& 0x0000707f#32 = 0x00006063#32
    simp only [encode, encodeB_raw, mask_707f, fieldOp_encodeRaw, fieldFunct3_encodeRaw]
    decide))
theorem bgeu (rs1 rs2 : Reg) (imm : Word) : Statement (.bgeu rs1 rs2 imm) :=
  row_selects 9 (by decide) (selects_of_eq (by
    show encode (.bgeu rs1 rs2 imm) &&& 0x0000707f#32 = 0x00007063#32
    simp only [encode, encodeB_raw, mask_707f, fieldOp_encodeRaw, fieldFunct3_encodeRaw]
    decide))
theorem lb (rd rs1 : Reg) (imm : Word) : Statement (.lb rd rs1 imm) :=
  row_selects 10 (by decide) (selects_of_eq (by
    show encode (.lb rd rs1 imm) &&& 0x0000707f#32 = 0x00000003#32
    simp only [encode, encodeI, mask_707f, fieldOp_encodeRaw, fieldFunct3_encodeRaw]
    decide))
theorem lh (rd rs1 : Reg) (imm : Word) : Statement (.lh rd rs1 imm) :=
  row_selects 12 (by decide) (selects_of_eq (by
    show encode (.lh rd rs1 imm) &&& 0x0000707f#32 = 0x00001003#32
    simp only [encode, encodeI, mask_707f, fieldOp_encodeRaw, fieldFunct3_encodeRaw]
    decide))
theorem lw (rd rs1 : Reg) (imm : Word) : Statement (.lw rd rs1 imm) :=
  row_selects 14 (by decide) (selects_of_eq (by
    show encode (.lw rd rs1 imm) &&& 0x0000707f#32 = 0x00002003#32
    simp only [encode, encodeI, mask_707f, fieldOp_encodeRaw, fieldFunct3_encodeRaw]
    decide))
theorem lbu (rd rs1 : Reg) (imm : Word) : Statement (.lbu rd rs1 imm) :=
  row_selects 16 (by decide) (selects_of_eq (by
    show encode (.lbu rd rs1 imm) &&& 0x0000707f#32 = 0x00004003#32
    simp only [encode, encodeI, mask_707f, fieldOp_encodeRaw, fieldFunct3_encodeRaw]
    decide))
theorem lhu (rd rs1 : Reg) (imm : Word) : Statement (.lhu rd rs1 imm) :=
  row_selects 17 (by decide) (selects_of_eq (by
    show encode (.lhu rd rs1 imm) &&& 0x0000707f#32 = 0x00005003#32
    simp only [encode, encodeI, mask_707f, fieldOp_encodeRaw, fieldFunct3_encodeRaw]
    decide))
theorem sb (rs1 rs2 : Reg) (imm : Word) : Statement (.sb rs1 rs2 imm) :=
  row_selects 11 (by decide) (selects_of_eq (by
    show encode (.sb rs1 rs2 imm) &&& 0x0000707f#32 = 0x00000023#32
    simp only [encode, encodeS_raw, mask_707f, fieldOp_encodeRaw, fieldFunct3_encodeRaw]
    decide))
theorem sh (rs1 rs2 : Reg) (imm : Word) : Statement (.sh rs1 rs2 imm) :=
  row_selects 13 (by decide) (selects_of_eq (by
    show encode (.sh rs1 rs2 imm) &&& 0x0000707f#32 = 0x00001023#32
    simp only [encode, encodeS_raw, mask_707f, fieldOp_encodeRaw, fieldFunct3_encodeRaw]
    decide))
theorem sw (rs1 rs2 : Reg) (imm : Word) : Statement (.sw rs1 rs2 imm) :=
  row_selects 15 (by decide) (selects_of_eq (by
    show encode (.sw rs1 rs2 imm) &&& 0x0000707f#32 = 0x00002023#32
    simp only [encode, encodeS_raw, mask_707f, fieldOp_encodeRaw, fieldFunct3_encodeRaw]
    decide))
theorem addi (rd rs1 : Reg) (imm : Word) : Statement (.addi rd rs1 imm) :=
  row_selects 18 (by decide) (selects_of_eq (by
    show encode (.addi rd rs1 imm) &&& 0x0000707f#32 = 0x00000013#32
    simp only [encode, encodeI, mask_707f, fieldOp_encodeRaw, fieldFunct3_encodeRaw]
    decide))
theorem slti (rd rs1 : Reg) (imm : Word) : Statement (.slti rd rs1 imm) :=
  row_selects 19 (by decide) (selects_of_eq (by
    show encode (.slti rd rs1 imm) &&& 0x0000707f#32 = 0x00002013#32
    simp only [encode, encodeI, mask_707f, fieldOp_encodeRaw, fieldFunct3_encodeRaw]
    decide))
theorem sltiu (rd rs1 : Reg) (imm : Word) : Statement (.sltiu rd rs1 imm) :=
  row_selects 20 (by decide) (selects_of_eq (by
    show encode (.sltiu rd rs1 imm) &&& 0x0000707f#32 = 0x00003013#32
    simp only [encode, encodeI, mask_707f, fieldOp_encodeRaw, fieldFunct3_encodeRaw]
    decide))
theorem xori (rd rs1 : Reg) (imm : Word) : Statement (.xori rd rs1 imm) :=
  row_selects 21 (by decide) (selects_of_eq (by
    show encode (.xori rd rs1 imm) &&& 0x0000707f#32 = 0x00004013#32
    simp only [encode, encodeI, mask_707f, fieldOp_encodeRaw, fieldFunct3_encodeRaw]
    decide))
theorem ori (rd rs1 : Reg) (imm : Word) : Statement (.ori rd rs1 imm) :=
  row_selects 22 (by decide) (selects_of_eq (by
    show encode (.ori rd rs1 imm) &&& 0x0000707f#32 = 0x00006013#32
    simp only [encode, encodeI, mask_707f, fieldOp_encodeRaw, fieldFunct3_encodeRaw]
    decide))
theorem andi (rd rs1 : Reg) (imm : Word) : Statement (.andi rd rs1 imm) :=
  row_selects 23 (by decide) (selects_of_eq (by
    show encode (.andi rd rs1 imm) &&& 0x0000707f#32 = 0x00007013#32
    simp only [encode, encodeI, mask_707f, fieldOp_encodeRaw, fieldFunct3_encodeRaw]
    decide))
theorem slli (rd rs1 : Reg) (shamt : BitVec 5) (b25 : Bool) : Statement (.slli rd rs1 shamt b25) :=
  row_selects 43 (by decide) (selects_of_eq (by
    show encode (.slli rd rs1 shamt b25) &&& 0xfc00707f#32 = 0x00001013#32
    simp only [encode, encodeShift_raw, mask_fc00707f, fieldOp_encodeRaw, fieldFunct3_encodeRaw, fieldCsr_encodeRaw, hi_funct6]
    decide))
theorem srli (rd rs1 : Reg) (shamt : BitVec 5) (b25 : Bool) : Statement (.srli rd rs1 shamt b25) :=
  row_selects 44 (by decide) (selects_of_eq (by
    show encode (.srli rd rs1 shamt b25) &&& 0xfc00707f#32 = 0x00005013#32
    simp only [encode, encodeShift_raw, mask_fc00707f, fieldOp_encodeRaw, fieldFunct3_encodeRaw, fieldCsr_encodeRaw, hi_funct6]
    decide))
theorem srai (rd rs1 : Reg) (shamt : BitVec 5) (b25 : Bool) : Statement (.srai rd rs1 shamt b25) :=
  row_selects 45 (by decide) (selects_of_eq (by
    show encode (.srai rd rs1 shamt b25) &&& 0xfc00707f#32 = 0x40005013#32
    simp only [encode, encodeShift_raw, mask_fc00707f, fieldOp_encodeRaw, fieldFunct3_encodeRaw, fieldCsr_encodeRaw, hi_funct6]
    decide))
theorem add (rd rs1 rs2 : Reg) : Statement (.add rd rs1 rs2) :=
  row_selects 46 (by decide) (selects_of_eq (by
    show encode (.add rd rs1 rs2) &&& 0xfe00707f#32 = 0x00000033#32
    simp only [encode, encodeR_raw, mask_fe00707f, fieldOp_encodeRaw, fieldFunct3_encodeRaw, fieldCsr_encodeRaw, hi_funct7]
    decide))
theorem sub (rd rs1 rs2 : Reg) : Statement (.sub rd rs1 rs2) :=
  row_selects 62 (by decide) (selects_of_eq (by
    show encode (.sub rd rs1 rs2) &&& 0xfe00707f#32 = 0x40000033#32
    simp only [encode, encodeR_raw, mask_fe00707f, fieldOp_encodeRaw, fieldFunct3_encodeRaw, fieldCsr_encodeRaw, hi_funct7]
    decide))
theorem sll (rd rs1 rs2 : Reg) : Statement (.sll rd rs1 rs2) :=
  row_selects 47 (by decide) (selects_of_eq (by
    show encode (.sll rd rs1 rs2) &&& 0xfe00707f#32 = 0x00001033#32
    simp only [encode, encodeR_raw, mask_fe00707f, fieldOp_encodeRaw, fieldFunct3_encodeRaw, fieldCsr_encodeRaw, hi_funct7]
    decide))
theorem slt (rd rs1 rs2 : Reg) : Statement (.slt rd rs1 rs2) :=
  row_selects 48 (by decide) (selects_of_eq (by
    show encode (.slt rd rs1 rs2) &&& 0xfe00707f#32 = 0x00002033#32
    simp only [encode, encodeR_raw, mask_fe00707f, fieldOp_encodeRaw, fieldFunct3_encodeRaw, fieldCsr_encodeRaw, hi_funct7]
    decide))
theorem sltu (rd rs1 rs2 : Reg) : Statement (.sltu rd rs1 rs2) :=
  row_selects 49 (by decide) (selects_of_eq (by
    show encode (.sltu rd rs1 rs2) &&& 0xfe00707f#32 = 0x00003033#32
    simp only [encode, encodeR_raw, mask_fe00707f, fieldOp_encodeRaw, fieldFunct3_encodeRaw, fieldCsr_encodeRaw, hi_funct7]
    decide))
theorem xor (rd rs1 rs2 : Reg) : Statement (.xor rd rs1 rs2) :=
  row_selects 50 (by decide) (selects_of_eq (by
    show encode (.xor rd rs1 rs2) &&& 0xfe00707f#32 = 0x00004033#32
    simp only [encode, encodeR_raw, mask_fe00707f, fieldOp_encodeRaw, fieldFunct3_encodeRaw, fieldCsr_encodeRaw, hi_funct7]
    decide))
theorem srl (rd rs1 rs2 : Reg) : Statement (.srl rd rs1 rs2) :=
  row_selects 51 (by decide) (selects_of_eq (by
    show encode (.srl rd rs1 rs2) &&& 0xfe00707f#32 = 0x00005033#32
    simp only [encode, encodeR_raw, mask_fe00707f, fieldOp_encodeRaw, fieldFunct3_encodeRaw, fieldCsr_encodeRaw, hi_funct7]
    decide))
theorem sra (rd rs1 rs2 : Reg) : Statement (.sra rd rs1 rs2) :=
  row_selects 63 (by decide) (selects_of_eq (by
    show encode (.sra rd rs1 rs2) &&& 0xfe00707f#32 = 0x40005033#32
    simp only [encode, encodeR_raw, mask_fe00707f, fieldOp_encodeRaw, fieldFunct3_encodeRaw, fieldCsr_encodeRaw, hi_funct7]
    decide))
theorem or (rd rs1 rs2 : Reg) : Statement (.or rd rs1 rs2) :=
  row_selects 52 (by decide) (selects_of_eq (by
    show encode (.or rd rs1 rs2) &&& 0xfe00707f#32 = 0x00006033#32
    simp only [encode, encodeR_raw, mask_fe00707f, fieldOp_encodeRaw, fieldFunct3_encodeRaw, fieldCsr_encodeRaw, hi_funct7]
    decide))
theorem and (rd rs1 rs2 : Reg) : Statement (.and rd rs1 rs2) :=
  row_selects 53 (by decide) (selects_of_eq (by
    show encode (.and rd rs1 rs2) &&& 0xfe00707f#32 = 0x00007033#32
    simp only [encode, encodeR_raw, mask_fe00707f, fieldOp_encodeRaw, fieldFunct3_encodeRaw, fieldCsr_encodeRaw, hi_funct7]
    decide))
theorem fence (fm pred succ : BitVec 4) (rs1 rd : Reg) : Statement (.fence fm pred succ rs1 rd) :=
  row_selects 24 (by decide) (selects_of_eq (by
    show encode (.fence fm pred succ rs1 rd) &&& 0x0000707f#32 = 0x0000000f#32
    simp only [encode, mask_707f, fieldOp_encodeRaw, fieldFunct3_encodeRaw]
    decide))
theorem fenceI (imm : BitVec 12) (rs1 rd : Reg) : Statement (.fenceI imm rs1 rd) :=
  row_selects 25 (by decide) (selects_of_eq (by
    show encode (.fenceI imm rs1 rd) &&& 0x0000707f#32 = 0x0000100f#32
    simp only [encode, mask_707f, fieldOp_encodeRaw, fieldFunct3_encodeRaw]
    decide))
theorem sfenceVma (rs1 rs2 : Reg) : Statement (.sfenceVma rs1 rs2) :=
  row_selects 64 (by decide) (selects_of_eq (by
    show encode (.sfenceVma rs1 rs2) &&& 0xfe007fff#32 = 0x12000073#32
    simp only [encode, encodeR_raw, mask_fe007fff, fieldOp_encodeRaw, fieldFunct3_encodeRaw, fieldCsr_encodeRaw, hi_funct7, fieldRd_encodeRaw]
    decide))
theorem wfi : Statement .wfi := row_selects 68 (by decide) (by decide)
theorem ecall : Statement .ecall := row_selects 65 (by decide) (by decide)
theorem ebreak : Statement .ebreak := row_selects 66 (by decide) (by decide)
theorem mret : Statement .mret := row_selects 69 (by decide) (by decide)
theorem sret : Statement .sret := row_selects 67 (by decide) (by decide)
theorem csrrw (rd rs1 : Reg) (csr : CsrAddr) : Statement (.csrrw rd rs1 csr) :=
  row_selects 26 (by decide) (selects_of_eq (by
    show encode (.csrrw rd rs1 csr) &&& 0x0000707f#32 = 0x00001073#32
    simp only [encode, mask_707f, fieldOp_encodeRaw, fieldFunct3_encodeRaw]
    decide))
theorem csrrs (rd rs1 : Reg) (csr : CsrAddr) : Statement (.csrrs rd rs1 csr) :=
  row_selects 27 (by decide) (selects_of_eq (by
    show encode (.csrrs rd rs1 csr) &&& 0x0000707f#32 = 0x00002073#32
    simp only [encode, mask_707f, fieldOp_encodeRaw, fieldFunct3_encodeRaw]
    decide))
theorem csrrc (rd rs1 : Reg) (csr : CsrAddr) : Statement (.csrrc rd rs1 csr) :=
  row_selects 28 (by decide) (selects_of_eq (by
    show encode (.csrrc rd rs1 csr) &&& 0x0000707f#32 = 0x00003073#32
    simp only [encode, mask_707f, fieldOp_encodeRaw, fieldFunct3_encodeRaw]
    decide))
theorem csrrwi (rd : Reg) (uimm : BitVec 5) (csr : CsrAddr) : Statement (.csrrwi rd uimm csr) :=
  row_selects 29 (by decide) (selects_of_eq (by
    show encode (.csrrwi rd uimm csr) &&& 0x0000707f#32 = 0x00005073#32
    simp only [encode, mask_707f, fieldOp_encodeRaw, fieldFunct3_encodeRaw]
    decide))
theorem csrrsi (rd : Reg) (uimm : BitVec 5) (csr : CsrAddr) : Statement (.csrrsi rd uimm csr) :=
  row_selects 30 (by decide) (selects_of_eq (by
    show encode (.csrrsi rd uimm csr) &&& 0x0000707f#32 = 0x00006073#32
    simp only [encode, mask_707f, fieldOp_encodeRaw, fieldFunct3_encodeRaw]
    decide))
theorem csrrci (rd : Reg) (uimm : BitVec 5) (csr : CsrAddr) : Statement (.csrrci rd uimm csr) :=
  row_selects 31 (by decide) (selects_of_eq (by
    show encode (.csrrci rd uimm csr) &&& 0x0000707f#32 = 0x00007073#32
    simp only [encode, mask_707f, fieldOp_encodeRaw, fieldFunct3_encodeRaw]
    decide))
theorem mul (rd rs1 rs2 : Reg) : Statement (.mul rd rs1 rs2) :=
  row_selects 54 (by decide) (selects_of_eq (by
    show encode (.mul rd rs1 rs2) &&& 0xfe00707f#32 = 0x02000033#32
    simp only [encode, encodeR_raw, mask_fe00707f, fieldOp_encodeRaw, fieldFunct3_encodeRaw, fieldCsr_encodeRaw, hi_funct7]
    decide))
theorem mulh (rd rs1 rs2 : Reg) : Statement (.mulh rd rs1 rs2) :=
  row_selects 55 (by decide) (selects_of_eq (by
    show encode (.mulh rd rs1 rs2) &&& 0xfe00707f#32 = 0x02001033#32
    simp only [encode, encodeR_raw, mask_fe00707f, fieldOp_encodeRaw, fieldFunct3_encodeRaw, fieldCsr_encodeRaw, hi_funct7]
    decide))
theorem mulhsu (rd rs1 rs2 : Reg) : Statement (.mulhsu rd rs1 rs2) :=
  row_selects 56 (by decide) (selects_of_eq (by
    show encode (.mulhsu rd rs1 rs2) &&& 0xfe00707f#32 = 0x02002033#32
    simp only [encode, encodeR_raw, mask_fe00707f, fieldOp_encodeRaw, fieldFunct3_encodeRaw, fieldCsr_encodeRaw, hi_funct7]
    decide))
theorem mulhu (rd rs1 rs2 : Reg) : Statement (.mulhu rd rs1 rs2) :=
  row_selects 57 (by decide) (selects_of_eq (by
    show encode (.mulhu rd rs1 rs2) &&& 0xfe00707f#32 = 0x02003033#32
    simp only [encode, encodeR_raw, mask_fe00707f, fieldOp_encodeRaw, fieldFunct3_encodeRaw, fieldCsr_encodeRaw, hi_funct7]
    decide))
theorem div (rd rs1 rs2 : Reg) : Statement (.div rd rs1 rs2) :=
  row_selects 58 (by decide) (selects_of_eq (by
    show encode (.div rd rs1 rs2) &&& 0xfe00707f#32 = 0x02004033#32
    simp only [encode, encodeR_raw, mask_fe00707f, fieldOp_encodeRaw, fieldFunct3_encodeRaw, fieldCsr_encodeRaw, hi_funct7]
    decide))
theorem divu (rd rs1 rs2 : Reg) : Statement (.divu rd rs1 rs2) :=
  row_selects 59 (by decide) (selects_of_eq (by
    show encode (.divu rd rs1 rs2) &&& 0xfe00707f#32 = 0x02005033#32
    simp only [encode, encodeR_raw, mask_fe00707f, fieldOp_encodeRaw, fieldFunct3_encodeRaw, fieldCsr_encodeRaw, hi_funct7]
    decide))
theorem rem (rd rs1 rs2 : Reg) : Statement (.rem rd rs1 rs2) :=
  row_selects 60 (by decide) (selects_of_eq (by
    show encode (.rem rd rs1 rs2) &&& 0xfe00707f#32 = 0x02006033#32
    simp only [encode, encodeR_raw, mask_fe00707f, fieldOp_encodeRaw, fieldFunct3_encodeRaw, fieldCsr_encodeRaw, hi_funct7]
    decide))
theorem remu (rd rs1 rs2 : Reg) : Statement (.remu rd rs1 rs2) :=
  row_selects 61 (by decide) (selects_of_eq (by
    show encode (.remu rd rs1 rs2) &&& 0xfe00707f#32 = 0x02007033#32
    simp only [encode, encodeR_raw, mask_fe00707f, fieldOp_encodeRaw, fieldFunct3_encodeRaw, fieldCsr_encodeRaw, hi_funct7]
    decide))
theorem lrW (rd rs1 : Reg) (aq rl : Bool) : Statement (.lrW rd rs1 aq rl) :=
  row_selects 42 (by decide) (selects_of_eq (by
    show encode (.lrW rd rs1 aq rl) &&& 0xf9f0707f#32 = 0x1000202f#32
    simp only [encode, encodeAmo_raw, mask_f9f0707f, fieldOp_encodeRaw, fieldFunct3_encodeRaw, fieldCsr_encodeRaw, hi_funct5_rs2]
    decide))
theorem scW (rd rs1 rs2 : Reg) (aq rl : Bool) : Statement (.scW rd rs1 rs2 aq rl) :=
  row_selects 34 (by decide) (selects_of_eq (by
    show encode (.scW rd rs1 rs2 aq rl) &&& 0xf800707f#32 = 0x1800202f#32
    simp only [encode, encodeAmo_raw, mask_f800707f, fieldOp_encodeRaw, fieldFunct3_encodeRaw, fieldCsr_encodeRaw, hi_funct5]
    decide))
theorem amoswapW (rd rs1 rs2 : Reg) (aq rl : Bool) : Statement (.amoswapW rd rs1 rs2 aq rl) :=
  row_selects 33 (by decide) (selects_of_eq (by
    show encode (.amoswapW rd rs1 rs2 aq rl) &&& 0xf800707f#32 = 0x0800202f#32
    simp only [encode, encodeAmo_raw, mask_f800707f, fieldOp_encodeRaw, fieldFunct3_encodeRaw, fieldCsr_encodeRaw, hi_funct5]
    decide))
theorem amoaddW (rd rs1 rs2 : Reg) (aq rl : Bool) : Statement (.amoaddW rd rs1 rs2 aq rl) :=
  row_selects 32 (by decide) (selects_of_eq (by
    show encode (.amoaddW rd rs1 rs2 aq rl) &&& 0xf800707f#32 = 0x0000202f#32
    simp only [encode, encodeAmo_raw, mask_f800707f, fieldOp_encodeRaw, fieldFunct3_encodeRaw, fieldCsr_encodeRaw, hi_funct5]
    decide))
theorem amoxorW (rd rs1 rs2 : Reg) (aq rl : Bool) : Statement (.amoxorW rd rs1 rs2 aq rl) :=
  row_selects 35 (by decide) (selects_of_eq (by
    show encode (.amoxorW rd rs1 rs2 aq rl) &&& 0xf800707f#32 = 0x2000202f#32
    simp only [encode, encodeAmo_raw, mask_f800707f, fieldOp_encodeRaw, fieldFunct3_encodeRaw, fieldCsr_encodeRaw, hi_funct5]
    decide))
theorem amoandW (rd rs1 rs2 : Reg) (aq rl : Bool) : Statement (.amoandW rd rs1 rs2 aq rl) :=
  row_selects 37 (by decide) (selects_of_eq (by
    show encode (.amoandW rd rs1 rs2 aq rl) &&& 0xf800707f#32 = 0x6000202f#32
    simp only [encode, encodeAmo_raw, mask_f800707f, fieldOp_encodeRaw, fieldFunct3_encodeRaw, fieldCsr_encodeRaw, hi_funct5]
    decide))
theorem amoorW (rd rs1 rs2 : Reg) (aq rl : Bool) : Statement (.amoorW rd rs1 rs2 aq rl) :=
  row_selects 36 (by decide) (selects_of_eq (by
    show encode (.amoorW rd rs1 rs2 aq rl) &&& 0xf800707f#32 = 0x4000202f#32
    simp only [encode, encodeAmo_raw, mask_f800707f, fieldOp_encodeRaw, fieldFunct3_encodeRaw, fieldCsr_encodeRaw, hi_funct5]
    decide))
theorem amominW (rd rs1 rs2 : Reg) (aq rl : Bool) : Statement (.amominW rd rs1 rs2 aq rl) :=
  row_selects 38 (by decide) (selects_of_eq (by
    show encode (.amominW rd rs1 rs2 aq rl) &&& 0xf800707f#32 = 0x8000202f#32
    simp only [encode, encodeAmo_raw, mask_f800707f, fieldOp_encodeRaw, fieldFunct3_encodeRaw, fieldCsr_encodeRaw, hi_funct5]
    decide))
theorem amomaxW (rd rs1 rs2 : Reg) (aq rl : Bool) : Statement (.amomaxW rd rs1 rs2 aq rl) :=
  row_selects 39 (by decide) (selects_of_eq (by
    show encode (.amomaxW rd rs1 rs2 aq rl) &&& 0xf800707f#32 = 0xa000202f#32
    simp only [encode, encodeAmo_raw, mask_f800707f, fieldOp_encodeRaw, fieldFunct3_encodeRaw, fieldCsr_encodeRaw, hi_funct5]
    decide))
theorem amominuW (rd rs1 rs2 : Reg) (aq rl : Bool) : Statement (.amominuW rd rs1 rs2 aq rl) :=
  row_selects 40 (by decide) (selects_of_eq (by
    show encode (.amominuW rd rs1 rs2 aq rl) &&& 0xf800707f#32 = 0xc000202f#32
    simp only [encode, encodeAmo_raw, mask_f800707f, fieldOp_encodeRaw, fieldFunct3_encodeRaw, fieldCsr_encodeRaw, hi_funct5]
    decide))
theorem amomaxuW (rd rs1 rs2 : Reg) (aq rl : Bool) : Statement (.amomaxuW rd rs1 rs2 aq rl) :=
  row_selects 41 (by decide) (selects_of_eq (by
    show encode (.amomaxuW rd rs1 rs2 aq rl) &&& 0xf800707f#32 = 0xe000202f#32
    simp only [encode, encodeAmo_raw, mask_f800707f, fieldOp_encodeRaw, fieldFunct3_encodeRaw, fieldCsr_encodeRaw, hi_funct5]
    decide))

end Sys2Proof.Laws.TableRow
end

