-- ==== Sys2Proof/Laws/Store.lean ====
section
/-!
SUPPORT. What a store on the bus leaves alone: the CSRs but mip, and every byte outside the bytes stored and outside the
device windows.
-/
namespace Sys2Proof.Machine

theorem clintWrite_csr {s : State} (h : Sparse.wf 0#32 s.csrs = true) (o : Nat) (b : Byte) (a : CsrAddr) (ha : a ≠ csrMip) :
    (clintWrite o b s).csr a = s.csr a := by
  by_cases h1 : o = 0
  · simp only [clintWrite, h1, if_true]; rw [State.csr_setMip _ (by exact h), if_neg ha]; rfl
  · by_cases h2 : 0x4000 ≤ o ∧ o ≤ 0x4007
    · simp only [clintWrite, h1, h2, if_false, and_self, if_true]
      rw [State.csr_setMip _ (by exact State.wf_setMip _ h _ _), if_neg ha, State.csr_setMip _ (by exact h), if_neg ha]; rfl
    · by_cases h3 : 0xBFF8 ≤ o ∧ o ≤ 0xBFFF
      · simp only [clintWrite, h1, h2, h3, if_false, and_self, if_true]; rfl
      · simp only [clintWrite, h1, h2, h3, if_false]

theorem busWriteByte_csr {s : State} (h : Sparse.wf 0#32 s.csrs = true) (pa : Word) (b : Byte) (a : CsrAddr) (ha : a ≠ csrMip) :
    (busWriteByte pa b s).csr a = s.csr a := by
  unfold busWriteByte
  generalize window s.cfg pa.toNat = w
  cases w
  case clint => simp only; exact clintWrite_csr h _ _ _ ha
  case rtc => simp only; rw [rtcWrite_eq]; rfl
  case mtd => by_cases h : s.cfg.mtdWritable = true <;> simp only [h, if_true, if_false, Bool.false_eq_true] <;> rfl
  all_goals rfl

/-- A byte outside the device windows is changed by a write to it only. -/
theorem busPeek_busWriteByte {s : State} (h : s.mem.wf = true) (pa : Word) (b : Byte) (x : Word) (hx : x ≠ pa)
    (h1 : window s.cfg x.toNat ≠ .clint) (h2 : window s.cfg x.toNat ≠ .rtc) (h3 : window s.cfg x.toNat ≠ .uart) :
    busPeek x (busWriteByte pa b s) = busPeek x s := by
  have hn : ¬ x.toNat = pa.toNat := fun e => hx (BitVec.eq_of_toNat_eq e)
  have hm : (busWriteByte pa b s).mem.read x.toNat = s.mem.read x.toNat := by
    unfold busWriteByte
    generalize window s.cfg pa.toNat = w
    cases w
    case clint => simp only; rw [clintWrite_eq]
    case rtc => simp only; rw [rtcWrite_eq]
    case mtd => by_cases hw : s.cfg.mtdWritable = true <;> simp only [hw, if_true, if_false, Bool.false_eq_true, Memory.read_write h, hn]
    all_goals first
      | rfl
      | simp only [Memory.read_write h, hn, if_false]
  have hc : (busWriteByte pa b s).cfg = s.cfg := by rw [busWriteByte_eq]
  unfold busPeek
  rw [hc, hm]
  generalize hw : window s.cfg x.toNat = w at *
  cases w <;> simp_all

/-- A store of n bytes at pa does no more than `StoreFrame` allows. -/
theorem busWrite_storeFrame (n : Nat) (pa v : Word) (s : State) (h : s.mem.wf = true) (hc : Sparse.wf 0#32 s.csrs = true) :
    StoreFrame s (busWrite n pa v s) n pa := by
  induction n generalizing pa v s with
  | zero => exact ⟨rfl, fun _ _ => rfl, fun _ _ _ _ _ => rfl⟩
  | succ n ih =>
    have e := busWriteByte_eq pa (v.setWidth 8) s
    have i := ih (pa + 1#32) (v >>> 8) (busWriteByte pa (v.setWidth 8) s) (busWriteByte_mem_wf h _ _) (busWriteByte_csrs_wf hc _ _)
    have hcfg : (busWriteByte pa (v.setWidth 8) s).cfg = s.cfg := by rw [e]
    refine ⟨busWrite_eq _ _ _ _, fun a ha => ?_, fun a ho h1 h2 h3 => ?_⟩
    · exact (i.csrs a ha).trans (busWriteByte_csr hc _ _ _ ha)
    · refine (i.bytes a ?_ (by rwa [hcfg]) (by rwa [hcfg]) (by rwa [hcfg])).trans (busPeek_busWriteByte h _ _ _ (by simpa using ho 0 (by omega)) h1 h2 h3)
      intro k hk
      have := ho (k+1) (by omega)
      intro hh; apply this; rw [hh, BitVec.add_assoc]; congr 1
      apply BitVec.eq_of_toNat_eq; simp [BitVec.toNat_add]; omega

end Sys2Proof.Machine
end

