-- ==== Sys2Proof/Tests/Slice0.lean ====
section
/-!
SUPPORT. Tests and witnesses. Expected results are those of spec/95_test_vectors.md (named V<n> or by the table of its
part 2), of the spec's encoding tables, or worked by hand from the rules. A `witness_` theorem shows a state and operands
that meet the hypotheses of the obligation it names, clause by clause.
-/
namespace Sys2Proof.Tests
open Sys2Proof Sys2Proof.Machine

/-! ### Small states -/

/-- The answer is a next state with the property. -/
def ok (r : Result) (p : State → Bool) : Bool :=
  match r with
  | .next t => p t
  | .fault _ => false
  | .refused _ => false

/-- The answer is this refusal. -/
def refusedAs (r : Result) (q : Refusal) : Bool :=
  match r with
  | .next _ => false
  | .fault _ => false
  | .refused x => decide (x = q)

/-- Reset with some general registers, CSRs and RAM words, and the trap vectors of spec/95_test_vectors.md. -/
def st (regs : List (Reg × Word)) (csrs : List (CsrAddr × Word)) (ram : List (Nat × Word)) : State :=
  let a := regs.foldl (fun s e => s.setReg e.1 e.2) State.reset
  let b := csrs.foldl (fun s e => s.setCsr e.1 e.2) ((a.setCsr csrMtvec 0x80000400#32).setCsr csrStvec 0x80000800#32)
  ram.foldl (fun s e => loadWord e.2 e.1 s) b

/-- The same in another mode. -/
def inMode (p : Priv) (s : State) : State := { s with priv := p }

/-- The same at another pc. -/
def atPc (a : Word) (s : State) : State := { s with pc := a }

/-- The RAM word at an address. -/
def word (a : Nat) (s : State) : Word := wordOfBytes (s.mem.read a) (s.mem.read (a + 1)) (s.mem.read (a + 2)) (s.mem.read (a + 3))

/-- rd is 1 and pc went on. -/
def gives (v : Word) (t : State) : Bool := t.reg 1#5 == v && t.pc == 0x80000004#32

/-- A trap line of spec/95_test_vectors.md for M. -/
def trapM (cause epc tval pc : Word) (t : State) : Bool :=
  t.csr csrMcause == cause && t.csr csrMepc == epc && t.csr csrMtval == tval && t.pc == pc && decide (t.priv = .m)

/-- A trap line of spec/95_test_vectors.md for S. -/
def trapS (cause epc tval pc : Word) (t : State) : Bool :=
  t.csr csrScause == cause && t.csr csrSepc == epc && t.csr csrStval == tval && t.pc == pc && decide (t.priv = .s)

/-! ### WellFormed refuses what no word assembles -/

theorem test_wf_addi_2048 : (Instr.addi 1 2 0x800#32).wf = false := by decide
theorem test_wf_sw_minus_2049 : (Instr.sw 1 2 0xFFFFF7FF#32).wf = false := by decide
theorem test_wf_beq_odd : (Instr.beq 1 2 7#32).wf = false := by decide
theorem test_wf_beq_4096 : (Instr.beq 1 2 0x1000#32).wf = false := by decide
theorem test_wf_jal_odd : (Instr.jal 1 3#32).wf = false := by decide
theorem test_wf_jal_too_far : (Instr.jal 1 0x100000#32).wf = false := by decide
theorem test_wf_lui_low_bits : (Instr.lui 1 0x00001001#32).wf = false := by decide

/-! ### Decoding: words of spec/95_test_vectors.md, one or more for every constructor -/

theorem test_decode_upper_and_jumps :
    decode 0xDEADB2B7#32 = .ok (.lui 5 0xDEADB000#32) ∧ decode 0xFFFFF197#32 = .ok (.auipc 3 0xFFFFF000#32) ∧
    decode 0x008000EF#32 = .ok (.jal 1 8#32) ∧ decode 0xF01FF0EF#32 = .ok (.jal 1 0xFFFFFF00#32) ∧
    decode 0x000080E7#32 = .ok (.jalr 1 1 0#32) ∧ decode 0xFFE282E7#32 = .ok (.jalr 5 5 0xFFFFFFFE#32) := by decide

theorem test_decode_branches :
    decode 0x00310463#32 = .ok (.beq 2 3 8#32) ∧ decode 0x00311463#32 = .ok (.bne 2 3 8#32) ∧
    decode 0x00314863#32 = .ok (.blt 2 3 16#32) ∧ decode 0x00315863#32 = .ok (.bge 2 3 16#32) ∧
    decode 0x00316863#32 = .ok (.bltu 2 3 16#32) ∧ decode 0xFE317EE3#32 = .ok (.bgeu 2 3 0xFFFFFFFC#32) ∧
    decode 0x80000063#32 = .ok (.beq 0 0 0xFFFFF000#32) ∧ decode 0x7E000FE3#32 = .ok (.beq 0 0 0xFFE#32) := by decide

theorem test_decode_memory :
    decode 0x00010083#32 = .ok (.lb 1 2 0#32) ∧ decode 0x00111083#32 = .ok (.lh 1 2 1#32) ∧
    decode 0xFFC12083#32 = .ok (.lw 1 2 0xFFFFFFFC#32) ∧ decode 0x00014083#32 = .ok (.lbu 1 2 0#32) ∧
    decode 0x00215083#32 = .ok (.lhu 1 2 2#32) ∧ decode 0x003100A3#32 = .ok (.sb 2 3 1#32) ∧
    decode 0x00311123#32 = .ok (.sh 2 3 2#32) ∧ decode 0x00312023#32 = .ok (.sw 2 3 0#32) := by decide

theorem test_decode_op_imm :
    decode 0xFFF10093#32 = .ok (.addi 1 2 0xFFFFFFFF#32) ∧ decode 0xFFF12093#32 = .ok (.slti 1 2 0xFFFFFFFF#32) ∧
    decode 0xFFF13093#32 = .ok (.sltiu 1 2 0xFFFFFFFF#32) ∧ decode 0xFFF14093#32 = .ok (.xori 1 2 0xFFFFFFFF#32) ∧
    decode 0x80016093#32 = .ok (.ori 1 2 0xFFFFF800#32) ∧ decode 0x7FF17093#32 = .ok (.andi 1 2 0x7FF#32) ∧
    decode 0x01F11093#32 = .ok (.slli 1 2 31 false) ∧ decode 0x00415093#32 = .ok (.srli 1 2 4 false) ∧
    decode 0x40415093#32 = .ok (.srai 1 2 4 false) ∧ decode 0x02311093#32 = .ok (.slli 1 2 3 true) := by decide

theorem test_decode_op :
    decode 0x003100B3#32 = .ok (.add 1 2 3) ∧ decode 0x403100B3#32 = .ok (.sub 1 2 3) ∧
    decode 0x003110B3#32 = .ok (.sll 1 2 3) ∧ decode 0x003120B3#32 = .ok (.slt 1 2 3) ∧
    decode 0x003130B3#32 = .ok (.sltu 1 2 3) ∧ decode 0x002140B3#32 = .ok (.xor 1 2 2) ∧
    decode 0x003150B3#32 = .ok (.srl 1 2 3) ∧ decode 0x4021D0B3#32 = .ok (.sra 1 3 2) ∧
    decode 0x003160B3#32 = .ok (.or 1 2 3) ∧ decode 0x003170B3#32 = .ok (.and 1 2 3) := by decide

theorem test_decode_mul_div :
    decode 0x023100B3#32 = .ok (.mul 1 2 3) ∧ decode 0x023110B3#32 = .ok (.mulh 1 2 3) ∧
    decode 0x023120B3#32 = .ok (.mulhsu 1 2 3) ∧ decode 0x023130B3#32 = .ok (.mulhu 1 2 3) ∧
    decode 0x023140B3#32 = .ok (.div 1 2 3) ∧ decode 0x023150B3#32 = .ok (.divu 1 2 3) ∧
    decode 0x023160B3#32 = .ok (.rem 1 2 3) ∧ decode 0x023170B3#32 = .ok (.remu 1 2 3) := by decide

theorem test_decode_atomics :
    decode 0x1000A12F#32 = .ok (.lrW 2 1 false false) ∧ decode 0x1842A1AF#32 = .ok (.scW 3 5 4 false false) ∧
    decode 0x0820A1AF#32 = .ok (.amoswapW 3 1 2 false false) ∧ decode 0x0620A1AF#32 = .ok (.amoaddW 3 1 2 true true) ∧
    decode 0x2020A1AF#32 = .ok (.amoxorW 3 1 2 false false) ∧ decode 0x6020A1AF#32 = .ok (.amoandW 3 1 2 false false) ∧
    decode 0x4020A1AF#32 = .ok (.amoorW 3 1 2 false false) ∧ decode 0x8020A1AF#32 = .ok (.amominW 3 1 2 false false) ∧
    decode 0xA020A1AF#32 = .ok (.amomaxW 3 1 2 false false) ∧ decode 0xC020A1AF#32 = .ok (.amominuW 3 1 2 false false) ∧
    decode 0xE020A1AF#32 = .ok (.amomaxuW 3 1 2 false false) := by decide

theorem test_decode_csr_and_system :
    decode 0x340110F3#32 = .ok (.csrrw 1 2 0x340) ∧ decode 0x100120F3#32 = .ok (.csrrs 1 2 0x100) ∧
    decode 0x304130F3#32 = .ok (.csrrc 1 2 0x304) ∧ decode 0x340050F3#32 = .ok (.csrrwi 1 0 0x340) ∧
    decode 0x30046073#32 = .ok (.csrrsi 0 8 0x300) ∧ decode 0x344070F3#32 = .ok (.csrrci 1 0 0x344) ∧
    decode 0x0FF0000F#32 = .ok (.fence 0 15 15 0 0) ∧ decode 0x0000100F#32 = .ok (.fenceI 0 0 0) ∧
    decode 0x12000073#32 = .ok (.sfenceVma 0 0) ∧ decode 0x10500073#32 = .ok .wfi ∧ decode 0x00000073#32 = .ok .ecall ∧
    decode 0x00100073#32 = .ok .ebreak ∧ decode 0x30200073#32 = .ok .mret ∧ decode 0x10200073#32 = .ok .sret := by decide

/-- An encoding put together bit by bit from R141 and R143 (SW, `imm[11:5] rs2 rs1 010 imm[4:0] 0100011`), and back. -/
theorem test_encode_sw : encode (.sw 2 3 0xFFFFF801#32) = 0b10000000001100010010000010100011#32 := by decide

/-- The bytes of an instruction are taken low byte first; three bytes are no instruction. -/
theorem test_decode_bytes :
    decodeBytes [0xB3, 0x00, 0x31, 0x40, 0x99] = .ok (.sub 1 2 3, [0x99]) ∧
    decodeBytes [0xB3, 0x00, 0x31] = .error .truncated ∧ decodeTableWord 32 0x403100B3 = some (.sub 1 2 3) := by decide

/-- The decoder refuses the word. -/
def illegal (w : Word) : Bool :=
  match decode w with
  | .ok _ => false
  | .error e => decide (e = .noTableRow w)

/-- One word of every class of illegal encodings (R148). -/
theorem test_decode_illegal :
    [0x00000001#32, 0x0000000B#32, 0x00013083#32, 0x00013023#32, 0x00012063#32, 0x00011067#32, 0x0000200F#32, 0x04311093#32,
      0x20415093#32, 0x423100B3#32, 0x403110B3#32, 0x0000302F#32, 0x2820A1AF#32, 0x1030A12F#32, 0x34004073#32, 0x00200073#32,
      0x120000F3#32].all illegal = true := by decide

/-! ### One step of each instruction (part 2 of spec/95_test_vectors.md) -/

theorem test_op_imm_add : ok (exec (.addi 1 2 0xFFFFFFFF#32) (st [] [] [])) (gives 0xFFFFFFFF#32) = true := by decide
theorem test_slti : ok (exec (.slti 1 2 0xFFFFFFFF#32) (st [(2, 0xFFFFFFFE#32)] [] [])) (gives 1#32) = true := by decide
theorem test_sltiu : ok (exec (.sltiu 1 2 0xFFFFFFFF#32) (st [(2, 5#32)] [] [])) (gives 1#32) = true := by decide
theorem test_srai : ok (exec (.srai 1 2 4 false) (st [(2, 0x80000000#32)] [] [])) (gives 0xF8000000#32) = true := by decide
theorem test_sll_33 : ok (exec (.sll 1 2 3) (st [(2, 1#32), (3, 33#32)] [] [])) (gives 2#32) = true := by decide
theorem test_slt : ok (exec (.slt 1 2 3) (st [(2, 0x80000000#32), (3, 1#32)] [] [])) (gives 1#32) = true := by decide
theorem test_sltu : ok (exec (.sltu 1 2 3) (st [(2, 0x80000000#32), (3, 1#32)] [] [])) (gives 0#32) = true := by decide
theorem test_sra_31 : ok (exec (.sra 1 2 3) (st [(2, 0x80000000#32), (3, 31#32)] [] [])) (gives 0xFFFFFFFF#32) = true := by decide
theorem test_add_wraps : ok (exec (.add 1 2 3) (st [(2, 0xFFFFFFFF#32), (3, 1#32)] [] [])) (gives 0#32) = true := by decide
theorem test_auipc : ok (exec (.auipc 1 0xFFFFF000#32) (st [] [] [])) (gives 0x7FFFF000#32) = true := by decide

/-- JALR with rd = rs1 uses the old register and clears bit 0. -/
theorem test_jalr : ok (exec (.jalr 1 1 0#32) (st [(1, 0x80000101#32)] [] []))
    (fun t => t.pc == 0x80000100#32 && t.reg 1 == 0x80000004#32) = true := by decide
theorem test_blt_taken : ok (exec (.blt 2 3 16#32) (st [(2, 0xFFFFFFFF#32), (3, 1#32)] [] []))
    (fun t => t.pc == 0x80000010#32) = true := by decide
theorem test_bge_not_taken : ok (exec (.bge 2 3 16#32) (st [(2, 0xFFFFFFFF#32), (3, 1#32)] [] []))
    (fun t => t.pc == 0x80000004#32) = true := by decide
theorem test_bgeu_backwards : ok (exec (.bgeu 2 3 0xFFFFFFFC#32) (atPc 0x80000100#32 (st [(2, 0xFFFFFFFF#32), (3, 1#32)] [] [])))
    (fun t => t.pc == 0x800000FC#32) = true := by decide

/-- A RAM word whose bytes tell the loads apart. -/
def loads : State := st [(2, 0x80001000#32), (3, 0x12345678#32)] [] [(0x80001000, 0x8001FF80#32)]

theorem test_lb : ok (exec (.lb 1 2 0#32) loads) (gives 0xFFFFFF80#32) = true := by decide
theorem test_lh_misaligned : ok (exec (.lh 1 2 1#32) loads) (gives 0x1FF#32) = true := by decide
theorem test_lw : ok (exec (.lw 1 2 0#32) loads) (gives 0x8001FF80#32) = true := by decide
theorem test_lbu : ok (exec (.lbu 1 2 0#32) loads) (gives 0x80#32) = true := by decide
theorem test_lhu : ok (exec (.lhu 1 2 2#32) loads) (gives 0x8001#32) = true := by decide
theorem test_sb : ok (exec (.sb 2 3 1#32) loads) (fun t => word 0x80001000 t == 0x80017880#32) = true := by decide
theorem test_sh : ok (exec (.sh 2 3 2#32) loads) (fun t => word 0x80001000 t == 0x5678FF80#32) = true := by decide
/-- V21: a misaligned store crosses two words. -/
theorem test_sw_misaligned : ok (exec (.sw 2 3 3#32) (st [(2, 0x80001000#32), (3, 0xA1B2C3D4#32)] [] []))
    (fun t => word 0x80001000 t == 0xD4000000#32 && word 0x80001004 t == 0x00A1B2C3#32) = true := by decide

theorem test_mulh : ok (exec (.mulh 1 2 3) (st [(2, 0x80000000#32), (3, 0x80000000#32)] [] [])) (gives 0x40000000#32) = true := by
  decide
theorem test_mulhsu : ok (exec (.mulhsu 1 2 3) (st [(2, 0x7FFFFFFF#32), (3, 0xFFFFFFFF#32)] [] [])) (gives 0x7FFFFFFE#32) = true := by
  decide
theorem test_mulhu : ok (exec (.mulhu 1 2 3) (st [(2, 0xFFFFFFFF#32), (3, 0xFFFFFFFF#32)] [] [])) (gives 0xFFFFFFFE#32) = true := by
  decide
theorem test_div_toward_zero : ok (exec (.div 1 2 3) (st [(2, 7#32), (3, 0xFFFFFFFE#32)] [] [])) (gives 0xFFFFFFFD#32) = true := by
  decide
theorem test_div_overflow : ok (exec (.div 1 2 3) (st [(2, 0x80000000#32), (3, 0xFFFFFFFF#32)] [] [])) (gives 0x80000000#32) = true := by
  decide
theorem test_rem_sign : ok (exec (.rem 1 2 3) (st [(2, 0xFFFFFFF9#32), (3, 2#32)] [] [])) (gives 0xFFFFFFFF#32) = true := by decide
theorem test_divu_by_zero : ok (exec (.divu 1 2 3) (st [(2, 7#32)] [] [])) (gives 0xFFFFFFFF#32) = true := by decide
theorem test_remu_by_zero : ok (exec (.remu 1 2 3) (st [(2, 7#32)] [] [])) (gives 7#32) = true := by decide

/-- The start of scenario S3. -/
def atom (old src : Word) : State := st [(1, 0x80001000#32), (2, src)] [] [(0x80001000, old)]

theorem test_lr : ok (exec (.lrW 2 1 true true) (atom 0xDEAD#32 0#32))
    (fun t => t.reg 2 == 0xDEAD#32 && decide (t.reservation = some 0x80001000#32)) = true := by decide
theorem test_sc : ok (exec (.scW 3 1 2 false false) { atom 0xDEAD#32 0xBEEF#32 with reservation := some 0x80001000#32 })
    (fun t => t.reg 3 == 0#32 && word 0x80001000 t == 0xBEEF#32 && decide (t.reservation = none)) = true := by decide
theorem test_sc_without_reservation : ok (exec (.scW 3 1 2 false false) (atom 0x1234#32 0xBEEF#32))
    (fun t => t.reg 3 == 1#32 && word 0x80001000 t == 0x1234#32) = true := by decide
/-- The old word and the stored one. -/
def amo (old new : Word) (t : State) : Bool := t.reg 3 == old && word 0x80001000 t == new
theorem test_amoadd : ok (exec (.amoaddW 3 1 2 false false) (atom 0xFFFFFFFF#32 1#32)) (amo 0xFFFFFFFF#32 0#32) = true := by decide
theorem test_amomin : ok (exec (.amominW 3 1 2 false false) (atom 0xFFFFFFFF#32 1#32)) (amo 0xFFFFFFFF#32 0xFFFFFFFF#32) = true := by
  decide
theorem test_amomax : ok (exec (.amomaxW 3 1 2 false false) (atom 0xFFFFFFFF#32 1#32)) (amo 0xFFFFFFFF#32 1#32) = true := by decide
theorem test_amominu : ok (exec (.amominuW 3 1 2 false false) (atom 0xFFFFFFFF#32 1#32)) (amo 0xFFFFFFFF#32 1#32) = true := by decide
theorem test_amomaxu : ok (exec (.amomaxuW 3 1 2 false false) (atom 0xFFFFFFFF#32 1#32)) (amo 0xFFFFFFFF#32 0xFFFFFFFF#32) = true := by
  decide
/-- V43: rd = rs2. -/
theorem test_amoadd_rd_is_rs2 : ok (exec (.amoaddW 2 1 2 false false) (atom 10#32 5#32))
    (fun t => t.reg 2 == 10#32 && word 0x80001000 t == 15#32) = true := by decide

theorem test_csrrs_sstatus : ok (exec (.csrrs 1 2 0x100) (st [(2, 2#32)] [(0x300, 0x1808#32)] []))
    (fun t => gives 0#32 t && t.csr 0x300 == 0x180A#32) = true := by decide
theorem test_csrrc_mie : ok (exec (.csrrc 1 2 0x304) (st [(2, 0x80#32)] [(0x304, 0x888#32)] []))
    (fun t => gives 0x888#32 t && t.csr 0x304 == 0x808#32) = true := by decide
theorem test_csrrwi_zero : ok (exec (.csrrwi 1 0 0x340) (st [] [(0x340, 0x55#32)] []))
    (fun t => gives 0x55#32 t && t.csr 0x340 == 0#32) = true := by decide
/-- V58: rd = rs1. -/
theorem test_csrrw_rd_is_rs1 : ok (exec (.csrrw 2 2 0x340) (st [(2, 7#32)] [(0x340, 3#32)] []))
    (fun t => t.reg 2 == 3#32 && t.csr 0x340 == 7#32) = true := by decide
/-- V50, V51: what mideleg and satp store. -/
theorem test_csrrw_mideleg : ok (exec (.csrrw 0 2 0x303) (st [(2, 0xFFFFFFFF#32)] [] [])) (fun t => t.csr 0x303 == 0x666#32) = true := by
  decide
theorem test_csrrw_satp : ok (exec (.csrrw 0 2 0x180) (st [(2, 0xFFFFFFFF#32)] [] []))
    (fun t => (csrRead 0x180 t).1 == 0x803FFFFF#32) = true := by decide
/-- V46: a write to a read-only address. -/
theorem test_csrrw_cycle : ok (exec (.csrrw 1 2 0xC00) (st [(2, 5#32)] [] []))
    (trapM 2#32 0x80000000#32 0xC00110F3#32 0x80000400#32) = true := by decide

theorem test_ecall_m : ok (exec .ecall (st [] [] [])) (trapM 0xB#32 0x80000000#32 0#32 0x80000400#32) = true := by decide
/-- V63: delegated to S. -/
theorem test_ecall_u_delegated : ok (exec .ecall (inMode .u (st [] [(0x302, 0x100#32)] [])))
    (fun t => trapS 8#32 0x80000000#32 0#32 0x80000800#32 t && t.csr 0x300 == 0#32) = true := by decide
theorem test_ebreak : ok (exec .ebreak (st [] [] [])) (trapM 3#32 0x80000000#32 0x80000000#32 0x80000400#32) = true := by decide
theorem test_mret : ok (exec .mret (st [] [(0x300, 0x880#32), (0x341, 0x80000100#32)] []))
    (fun t => decide (t.priv = .s) && t.csr 0x300 == 0x88#32 && t.pc == 0x80000100#32) = true := by decide
/-- V68: MPRV is kept on the way to M. -/
theorem test_mret_keeps_mprv : ok (exec .mret (st [] [(0x300, 0x21800#32)] []))
    (fun t => decide (t.priv = .m) && t.csr 0x300 == 0x20080#32) = true := by decide
theorem test_sret : ok (exec .sret (inMode .s (st [] [(0x300, 0x20020#32), (0x141, 0x80000200#32)] [])))
    (fun t => decide (t.priv = .u) && t.csr 0x300 == 0x22#32 && t.pc == 0x80000200#32) = true := by decide
/-- V65: SRET in U. -/
theorem test_sret_in_u : ok (exec .sret (inMode .u (st [] [] [])))
    (trapM 2#32 0x80000000#32 0x10200073#32 0x80000400#32) = true := by decide

/-! ### Whole ticks -/

/-- V47's last tick: cycle reads the clock already advanced. -/
theorem test_step_reads_cycle : ok (step { st [] [] [(0x80000000, 0xC00020F3#32)] with clock := 2#32 }) (gives 3#32) = true := by decide
/-- V72, with the pending MTIP of R430: the zero word is illegal. -/
theorem test_step_zero_word : ok (step (st [] [] []))
    (fun t => trapM 2#32 0x80000000#32 0#32 0x80000400#32 t && t.csr csrMip == 0x80#32 && t.clint.mtime == 1#64) = true := by decide
/-- V71: a misaligned pc. -/
theorem test_step_misaligned : ok (step (atPc 0x80000002#32 (st [] [] [])))
    (trapM 0#32 0x80000002#32 0x80000002#32 0x80000400#32) = true := by decide
/-- V74: a vectored timer interrupt after the instruction. -/
theorem test_step_timer_vectored :
    ok (step (st [] [(0x305, 0x80000403#32), (0x300, 8#32), (0x304, 0x80#32), (0x344, 0x80#32)] [(0x80000000, 0x13#32)]))
      (trapM 0x80000007#32 0x80000004#32 0#32 0x8000041C#32) = true := by decide
/-- V83: the one candidate is masked, and no other is looked at. -/
theorem test_step_candidate_masked :
    ok (step (st [] [(0x302, 8#32), (0x300, 8#32), (0x304, 0x88#32), (0x344, 0x88#32)] [(0x80000000, 0x13#32)]))
      (fun t => t.pc == 0x80000004#32 && t.csr csrMip == 0x88#32) = true := by decide
/-- V86: a trap to U is refused. -/
theorem test_step_trap_to_user :
    refusedAs (step (inMode .s (st [] [(0x302, 0x200#32), (0x102, 0x200#32)] [(0x80000000, 0x73#32)]))) .trapToUser = true := by decide
/-- V110: the byte goes out in the tick that wrote it. -/
theorem test_step_uart_out : ok (step (st [(2, 0x10000000#32), (3, 0x41#32)] [] [(0x80000000, 0x00310023#32)]))
    (fun t => decide (t.host.events = [.uartOut 0x41]) && t.uart.thr == 0#8 && t.uart.lsr == 0x60#8) = true := by decide
/-- V103: msip by a store. -/
theorem test_step_msip : ok (step (st [(2, 0x02000000#32), (3, 1#32)] [] [(0x80000000, 0x00310023#32)]))
    (fun t => t.clint.msip && t.csr csrMip == 0x88#32) = true := by decide
/-- A host move lands before the tick: a received byte and SEIP (R100, D33). -/
theorem test_step_host_receive :
    ok (step { st [] [] [(0x80000000, 0x13#32)] with host := { draws := 0, events := [], inbox := [.receive [(4095, 7#8)] true] } })
      (fun t => t.mem.read 0x11001FFF == 7#8 && (t.csr csrMip).getLsbD 9 && decide (t.host.inbox = [])) = true := by decide

/-- The page tables of V88: VA 0x1000 is the leaf, the code at 0x80000000 a superpage `code`; Sv32 is on. -/
def paged (leaf code : Word) (p : Priv) (ms : Word) : State :=
  inMode p { st [(2, 0x1004#32), (3, 0x77#32)] [(0x300, ms)]
      [(0x80010800, code), (0x80010000, 0x20004401#32), (0x80011004, leaf), (0x80005004, 0x600D#32), (0x80000000, 0x00012083#32)]
    with mmu := Mmu.ofSatp 0x80080010#32 }

/-- V88's load, through fetch and data walks in U. -/
theorem test_step_paged_load : ok (step (paged 0x200014D7#32 0x2000005B#32 .u 0#32)) (gives 0x600D#32) = true := by decide
/-- V89: A = 0. -/
theorem test_step_paged_fault : ok (step (paged 0x20001497#32 0x2000005B#32 .u 0#32))
    (trapM 0xD#32 0x80000000#32 0x1004#32 0x80000400#32) = true := by decide
/-- V102: S may not fetch from a user page without SUM. -/
theorem test_step_paged_fetch_fault : ok (step (paged 0#32 0x2000005B#32 .s 0#32))
    (trapM 0xC#32 0x80000000#32 0x80000000#32 0x80000400#32) = true := by decide

/-- V114's snapshot. -/
theorem test_rtc_snapshot : rtcSnapshot ⟨20, 56, 34, 12, 3, 10, 10, 26⟩ = { rtc0 := 0x12345620#32, rtc1 := 0x26111103#32 } := by decide

/-! ### Witnesses -/

/-- Each format's boundary immediates are well-formed. -/
theorem witness_DecodeUndoesEncode :
    (Instr.addi 31 31 0xFFFFF800#32).wf = true ∧ (Instr.sw 31 31 0x7FF#32).wf = true ∧
    (Instr.beq 31 31 0xFFFFF000#32).wf = true ∧ (Instr.bgeu 0 0 0xFFE#32).wf = true ∧ (Instr.jal 31 0xFFF00000#32).wf = true ∧
    (Instr.jal 0 0xFFFFE#32).wf = true ∧ (Instr.lui 31 0xFFFFF000#32).wf = true ∧ Instr.mret.wf = true := by decide

theorem witness_EncodeUndoesDecode : decode 0x7E000FE3#32 = .ok (.beq 0 0 0xFFE#32) ∧ decode 0xFFFFFFB7#32 = .ok (.lui 31 0xFFFFF000#32) := by
  decide

/-- Every clause of the table has a word, the row's own match value, and no word falls under two (opcodeRows_disjoint). -/
theorem witness_OpcodeTableDecodes :
    (∀ r ∈ opcodeRows, r.bits &&& r.mask = r.bits) ∧
    opcodeRows.Pairwise (fun a b => (a.bits ^^^ b.bits) &&& a.mask &&& b.mask ≠ 0#32) :=
  ⟨by decide, opcodeRows_disjoint⟩

/-- The hypotheses of the clauses of AluLaws, on registers of one state. -/
theorem witness_AluLaws :
    let s := st [(2, 0xFFFFFFFF#32), (3, 1#32), (4, 0x7FFFFFFF#32), (5, 31#32), (6, 0x3F#32), (7, 0x80000001#32), (8, 32#32)] [] []
    s.reg 3 = ~~~(s.reg 2) + 1#32 ∧ (s.reg 4).getLsbD 31 = false ∧ (s.reg 5).toNat % 32 = 31 ∧ (s.reg 8).toNat % 32 = 0 ∧
    (s.reg 5).toNat % 32 = (s.reg 6).toNat % 32 ∧ s.reg 4 = s.reg 2 ^^^ 0x80000000#32 ∧ s.reg 7 = s.reg 3 ^^^ 0x80000000#32 ∧
    (1 : Reg) ≠ 0#5 := by decide

theorem witness_BranchLaws :
    immBok 0xFFFFF000#32 = true ∧ immBok 0xFFE#32 = true ∧ (st [] [] []).pc.getLsbD 0 = false := by decide

/-- A data access that translates, off and through the tables of V88. -/
theorem witness_LoadsComplete :
    (translate 0xFFFFFFFF#32 .read (st [] [] [])).1 = some 0xFFFFFFFF#32 ∧
    (translate 0x1FFF#32 .read (paged 0x200014D7#32 0x2000005B#32 .u 0#32)).1 = some 0x80005FFF#32 := by decide

/-- Just below and just above the UART, and at the end of the address space. -/
theorem witness_PlainLoadsGiveBytes :
    (st [] [] []).mmu.mode = .off ∧
    [0x0FFFFFFC#32, 0x10000008#32, 0xFFFFFFFE#32, 0x80000000#32].all (fun a =>
      decide (∀ i : Nat, i < 4 → window (st [] [] []).cfg (a + BitVec.ofNat 32 i).toNat ≠ .uart)) = true := by decide

theorem witness_StoresComplete :
    (translate 0x1FFF#32 .write (paged 0x200014D7#32 0x2000005B#32 .u 0#32)).1 = some 0x80005FFF#32 ∧
    (paged 0x200014D7#32 0x2000005B#32 .u 0#32).mem.wf = true ∧
    Sparse.wf 0#32 (paged 0x200014D7#32 0x2000005B#32 .u 0#32).csrs = true := by decide

/-- The first and the last bytes of RAM. -/
theorem witness_PlainStoresChangeOnlyBytes :
    (st [] [] []).mmu.mode = .off ∧ (st [] [] []).mem.wf = true ∧
    [0x80000000#32, 0xFFFFFFFC#32].all (fun a => decide (window (st [] [] []).cfg a.toNat = .ram)
      && decide (window (st [] [] []).cfg (a + 1#32).toNat = .ram) && decide (window (st [] [] []).cfg (a + 2#32).toNat = .ram)
      && decide (window (st [] [] []).cfg (a + 3#32).toNat = .ram)) = true := by decide

/-- Pages that fault for a read, for a write, and for a store of a reserved address. -/
theorem witness_DataPageFaultsTrap :
    let s := { paged 0x20001457#32 0x2000005B#32 .u 0#32 with reservation := some 0x1004#32 }
    (translate (s.reg 2) .write s).1 = none ∧ (translate (s.reg 2 + 0xFFC#32) .read s).1 = none ∧
    (translate (s.reg 2 + 0xFFC#32) .write s).1 = none ∧ (translate (s.reg 0) .read s).1 = none ∧
    s.reservation = some (s.reg 2) := by decide

theorem witness_StoreThenLoadReturnsValue :
    let s := st [(2, 0xFFFFFFF8#32)] [] []
    s.mmu.mode = .off ∧ s.mem.wf = true ∧ (1 : Reg) ≠ 0#5 ∧
    (∀ i, i < 4 → window s.cfg (s.reg 2 + 4#32 + BitVec.ofNat 32 i).toNat = .ram) ∧
    s.reg 2 + 7#32 = s.reg 2 + 4#32 + BitVec.ofNat 32 3 := by decide

/-- The operands of each clause of DivideResults; the clauses on b = 0 and the overflow exclude each other. -/
theorem witness_DivideResults :
    let s := st [(2, 0x80000000#32), (3, 0xFFFFFFFF#32), (4, 1#32)] [] []
    s.reg 0 = 0#32 ∧ (s.reg 2 = 0x80000000#32 ∧ s.reg 3 = 0xFFFFFFFF#32) ∧ s.reg 4 ≠ 0#32 ∧
    ¬ (s.reg 2 = 0x80000000#32 ∧ s.reg 4 = 0xFFFFFFFF#32) := by decide

theorem witness_LoadReservedReserves :
    (translate ((atom 0#32 0#32).reg 1) .read (atom 0#32 0#32)).1 = some 0x80001000#32 := by decide

/-- SC.W without and with its reservation. -/
theorem witness_StoreConditionalStoresOrFails :
    (atom 0#32 0#32).reservation ≠ some ((atom 0#32 0#32).reg 1) ∧
    (let s := { atom 0#32 0#32 with reservation := some 0x80001000#32 }
     s.reservation = some (s.reg 1) ∧ (translate (s.reg 1) .write s).1 = some 0x80001000#32 ∧ s.mem.wf = true ∧
       Sparse.wf 0#32 s.csrs = true) := by decide

theorem witness_AmoResults :
    (translate ((atom 9#32 1#32).reg 1) .write (atom 9#32 1#32)).1 = some 0x80001000#32 ∧ (atom 9#32 1#32).mem.wf = true ∧
    Sparse.wf 0#32 (atom 9#32 1#32).csrs = true := by decide

/-- Instructions that go on: LR.W, a succeeding SC.W, and an exception that clears the reservation. -/
theorem witness_ReservationLife :
    (atom 0#32 0#32).raised = false ∧ ok (exec (.lrW 2 1 false false) (atom 0#32 0#32)) (fun _ => true) = true ∧
    ok (exec (.scW 3 1 2 false false) { atom 0#32 0#32 with reservation := some 0x80001000#32 })
      (fun t => decide (t.reservation = none)) = true ∧
    ok (exec .ecall { atom 0#32 0#32 with reservation := some 0x80001000#32 })
      (fun t => t.raised && decide (t.reservation = none)) = true := by decide

/-- The access check at its boundaries: writable by U, by M only; read-only; above the mode. -/
theorem witness_CsrInstructionsCompleteOrTrap :
    (((0x0FF#12).extractLsb' 8 2).toNat ≤ Priv.u.code.toNat ∧ (0x0FF#12).extractLsb' 10 2 ≠ 3#2) ∧
    (((0xBFF#12).extractLsb' 8 2).toNat ≤ Priv.m.code.toNat ∧ (0xBFF#12).extractLsb' 10 2 ≠ 3#2) ∧
    (((0xC00#12).extractLsb' 8 2).toNat ≤ Priv.u.code.toNat ∧ ¬ (0xC00#12).extractLsb' 10 2 ≠ 3#2) ∧
    ¬ ((0x100#12).extractLsb' 8 2).toNat ≤ Priv.u.code.toNat ∧ ¬ ((0x200#12).extractLsb' 8 2).toNat ≤ Priv.s.code.toNat ∧
    (1 : Reg) ≠ 0#5 := by decide

theorem witness_CsrFileReadsAndWrites :
    Sparse.wf 0#32 State.reset.csrs = true ∧ (0x0C2#12 : CsrAddr) ≠ 0x0C3#12 ∧
    (0x0C4#12 : CsrAddr) ∉ [0x100#12, 0x104#12, 0x144#12, 0x180#12, 0xC00#12, 0xB00#12, 0xC01#12, 0x0C0#12, 0x0C2#12, 0x0C3#12] ∧
    [0x0C1#12, 0x0C3#12, 0x302#12].all (fun a =>
      decide (a ∉ [0x100#12, 0x104#12, 0x144#12, 0x303#12, 0x180#12, 0xB00#12, 0x0C0#12, 0x0C2#12])) = true ∧
    [0x0C0#12, 0x0C2#12, 0x100#12, 0x303#12].all (fun a => decide (a ≠ 0x180#12 ∧ a ≠ 0x0C1#12)) = true := by decide

theorem witness_ViewsShowMaskedBits :
    Sparse.wf 0#32 (inMode .s State.reset).csrs = true ∧ (inMode .s State.reset).priv ≠ .u := by decide

theorem witness_SatpAndCountersRead :
    (inMode .s State.reset).priv ≠ .u ∧ (31 : Reg) ≠ 0#5 ∧ State.reset.priv = .m := by decide

/-- Reset meets the invariant, in every mode. -/
theorem reset_inv (p : Priv) : Inv (inMode p State.reset) where
  memory := rfl
  memoryPlace := by intro c hc; cases hc
  csrFile := rfl
  csrPlace := by intro c hc; simp [inMode, State.reset] at hc; subst hc; decide
  zero := rfl
  mideleg := by simp [inMode, State.reset, State.csr, Sparse.read]
  unstored := by
    intro a ha
    have hne : a.toNat ≠ 0x301 := by
      intro h
      have : a = 0x301#12 := BitVec.eq_of_toNat_eq h
      subst this
      exact absurd ha (by decide)
    simp [inMode, State.reset, State.csr, Sparse.read, hne]
  uart := by
    show uartOk State.reset.uart = true
    decide
  settled := rfl

/-- A CSR write by U that goes on. -/
theorem witness_UserKeepsPrivilegedState :
    Inv (inMode .u State.reset) ∧ (inMode .u State.reset).priv = .u ∧ (inMode .u State.reset).cfg.xretPrivCheck = true ∧
    ok (exec (.csrrwi 0 31 0x0C1) (inMode .u State.reset)) (fun t => !t.raised) = true :=
  ⟨reset_inv .u, rfl, rfl, by decide⟩

/-- The environment call of each mode, to M and delegated; the exit; a run that has ended. -/
theorem witness_EcallTrapsOrEndsRun :
    let s := st [] [(0x302, 0xB00#32)] []
    let e := { st [(17, 93#32)] [] [] with cfg := { Config.launch with ecallExitEnabled := true } }
    Sparse.wf 0#32 s.csrs = true ∧ ¬ (s.cfg.ecallExitEnabled = true ∧ s.reg 17#5 = 93#32) ∧
    (Delegated s 8 ∧ ¬ Demoted s 8) ∧ (Delegated s 9 ∧ ¬ Demoted s 9) ∧ (Delegated s 11 ∧ ¬ Demoted s 11) ∧
    GoesToM (st [] [] []) 8 ∧ GoesToM (st [] [] []) 9 ∧ GoesToM (st [] [] []) 11 ∧
    (e.cfg.ecallExitEnabled = true ∧ e.reg 17#5 = 93#32) ∧
    ({ e with exited := some 3#32 } : State).exited = some 3#32 := by
  unfold Delegated Demoted GoesToM; decide

theorem witness_EbreakTraps :
    GoesToM (st [] [] []) 3 ∧ Delegated (st [] [(0x303, 8#32)] []) 3 ∧ ¬ Demoted (st [] [(0x303, 8#32)] []) 3 ∧
    Sparse.wf 0#32 (st [] [(0x303, 8#32)] []).csrs = true := by
  unfold Delegated Demoted GoesToM; decide

/-- MRET to each mode, outside M, and with the reserved MPP. -/
theorem witness_MretReturns :
    let at_ : Word → State := fun ms => st [] [(0x300, ms)] []
    (∀ e ∈ [(0x0#32, Priv.u), (0x800#32, Priv.s), (0x1800#32, Priv.m)], ((at_ e.1).csr csrMstatus).extractLsb' 11 2 = e.2.code) ∧
    (at_ 0x1000#32).priv = .m ∧ ((at_ 0x1000#32).csr csrMstatus).extractLsb' 11 2 = 2#2 ∧
    Sparse.wf 0#32 (at_ 0x1000#32).csrs = true ∧
    (inMode .s (at_ 0#32)).cfg.xretPrivCheck = true ∧ (inMode .s (at_ 0#32)).priv ≠ .m := by decide

theorem witness_SretReturns :
    Sparse.wf 0#32 (inMode .s (st [] [] [])).csrs = true ∧ (inMode .s (st [] [] [])).priv ≠ .u ∧
    (inMode .u (st [] [] [])).cfg.xretPrivCheck = true ∧ (inMode .u (st [] [] [])).priv = .u := by decide

/-- An exception to M, to S, and refused. -/
theorem witness_ExceptionEntrySaves :
    Sparse.wf 0#32 (st [] [(0x302, 4#32), (0x102, 4#32)] []).csrs = true ∧ GoesToM (st [] [] []) 2 ∧
    (Delegated (st [] [(0x302, 4#32)] []) 2 ∧ ¬ Demoted (st [] [(0x302, 4#32)] []) 2) ∧
    (Delegated (st [] [(0x302, 4#32), (0x102, 4#32)] []) 2 ∧ Demoted (st [] [(0x302, 4#32), (0x102, 4#32)] []) 2) := by
  unfold Delegated Demoted GoesToM; decide

/-- A state whose interrupts `bits` are pending and enabled, with mstatus `ms` and mideleg `del`. -/
def pending (bits ms del : Word) : State := st [] [(0x304, bits), (0x344, bits), (0x300, ms), (0x303, del)] []

/-- Each candidate of InterruptSelectionOrder, alone and with all of lower priority pending. -/
theorem witness_InterruptSelectionOrder :
    interruptCandidate (pending 0xAAA#32 0#32 0#32) = some 11 ∧ interruptCandidate (pending 0x2AA#32 0#32 0#32) = some 3 ∧
    interruptCandidate (pending 0x2A2#32 0#32 0#32) = some 7 ∧ interruptCandidate (pending 0x222#32 0#32 0#32) = some 9 ∧
    interruptCandidate (pending 0x22#32 0#32 0#32) = some 1 ∧ interruptCandidate (pending 0x20#32 0#32 0#32) = some 5 ∧
    interruptCandidate (pending 0x555#32 0#32 0#32) = none := by decide

/-- The clauses of InterruptDeliveryOrMask: masked in M, taken in M and from U, masked and taken for S, refused. -/
theorem witness_InterruptDeliveryOrMask :
    (interruptCandidate (pending 0x80#32 0#32 0#32) = some 7 ∧ GoesToM (pending 0x80#32 0#32 0#32) 7 ∧
      (pending 0x80#32 0#32 0#32).priv = .m ∧ ((pending 0x80#32 0#32 0#32).csr csrMstatus).getLsbD 3 = false) ∧
    ((pending 0x80#32 8#32 0#32).csr csrMstatus).getLsbD 3 = true ∧ (inMode .u (pending 0x80#32 0#32 0#32)).priv ≠ .m ∧
    (interruptCandidate (pending 0x20#32 2#32 0x20#32) = some 5 ∧ Delegated (pending 0x20#32 2#32 0x20#32) 5 ∧
      ¬ Demoted (pending 0x20#32 2#32 0x20#32) 5 ∧ ((pending 0x20#32 2#32 0x20#32).csr csrMstatus).getLsbD 1 = true ∧
      ((pending 0x20#32 0#32 0x20#32).csr csrMstatus).getLsbD 1 = false) ∧
    Sparse.wf 0#32 (pending 0x20#32 2#32 0x20#32).csrs = true ∧
    (Delegated ((pending 0x20#32 2#32 0x20#32).setCsr 0x103 0x20#32) 5 ∧ Demoted ((pending 0x20#32 2#32 0x20#32).setCsr 0x103 0x20#32) 5) ∧
    (pending 0#32 0#32 0#32).exited = none ∧ (pending 0#32 0#32 0#32).raised = false ∧
    ({ pending 0#32 0#32 0#32 with raised := true } : State).raised = true := by
  unfold Delegated Demoted GoesToM; decide

/-- The premise of ClintTickSetsBits, ClintBytesOnBus and UartInterruptSetsSeip; the CLINT's windows at their ends. -/
theorem witness_Clint :
    Sparse.wf 0#32 State.reset.csrs = true ∧
    [0x02000000, 0x02000003, 0x02004000, 0x02004007, 0x0200BFF8, 0x0200BFFF].all (fun a =>
      decide (window State.reset.cfg a = .clint)) = true := by decide

/-- DLAB clear and set. -/
theorem witness_UartBytesOnBus :
    State.reset.uart.lcr.getLsbD 7 = false ∧ ({ State.reset.uart with lcr := 0x80#8 } : Uart).lcr.getLsbD 7 = true := by decide

/-- A byte that goes out, clocks that hold it, a tick that asks the host, and the two answers. -/
theorem witness_UartTickTransfers :
    ((0x9#32).getLsbD 1 = false ∧ (0x9#32).getLsbD 2 = false ∧ (0x9#32).getLsbD 4 = false ∧
      ({ State.reset.uart with thr := 1#8 } : Uart).thr ≠ 0#8) ∧
    (0x2#32).getLsbD 1 = true ∧ (0x4#32).getLsbD 2 = true ∧ (0x10#32).getLsbD 4 = true ∧ State.reset.uart.thr = 0#8 ∧
    ((230400#32).toNat % 230400 = 0 ∧ State.reset.uart.rbr = 0#8) ∧ (1#32).toNat % 230400 ≠ 0 ∧
    ({ State.reset.uart with rbr := 1#8 } : Uart).rbr ≠ 0#8 := by decide

/-- The host's answer, whatever it is, falls under exactly one of UartTickTransfers' two clauses. -/
theorem witness_UartTickTransfers_answer (n : Nat) : Config.uartIn n = none ∨ ∃ b, Config.uartIn n = some b := by
  cases h : Config.uartIn n with
  | none => exact .inl rfl
  | some b => exact .inr ⟨b, rfl⟩

theorem witness_RtcReadsAndSnapshot :
    [0x03000000#32, 0x030007FF#32].all (fun a => decide (0x03000000 ≤ a.toNat ∧ a.toNat ≤ 0x030007FF)) = true ∧
    ¬ (0x7F9 = 0x7F8 ∧ (0x40#8 : Byte) = 0x40#8) ∧ ¬ (0x7F8 = 0x7F8 ∧ (0x41#8 : Byte) = 0x40#8) := by decide

/-- Each window of WindowsHoldOrDropBytes at its ends, on a machine with 64 KiB of RAM and of MTD. -/
theorem witness_WindowsHoldOrDropBytes :
    let c : Launch := { Config.launch with memSize := 0x10000, mtdSize := 0x10000, mtdWritable := true }
    (∀ a ∈ [0x80000000, 0x8000FFFF], 0x80000000 ≤ a ∧ a < 0x80000000 + c.memSize) ∧
    (∀ a ∈ [0x11000000, 0x11001FFF], 0x11000000 ≤ a ∧ a ≤ 0x11001FFF) ∧
    (∀ a ∈ [0x40000000, 0x4000FFFF], 0x40000000 ≤ a ∧ a < 0x40000000 + c.mtdSize ∧ a < 0x80000000) ∧
    (∀ n ∈ [0x0, 0x101F, 0x2000, 0x01FFFFFF, 0x02000004, 0x02003FFF, 0x02004008, 0x0200BFF7, 0x0200C000, 0x02FFFFFF,
        0x03000800, 0x0FFFFFFF, 0x10000008, 0x10FFFFFF, 0x11002000, 0x3FFFFFFF, 0x40010000, 0x7FFFFFFF, 0x80010000,
        0xFFFFFFFF],
      window c n = .unmapped ∧
      ¬ (0x00001020 ≤ n ∧ n ≤ 0x00001FFF) ∧ ¬ (0x02000000 ≤ n ∧ n ≤ 0x02000003) ∧ ¬ (0x02004000 ≤ n ∧ n ≤ 0x02004007) ∧
      ¬ (0x0200BFF8 ≤ n ∧ n ≤ 0x0200BFFF) ∧ ¬ (0x03000000 ≤ n ∧ n ≤ 0x030007FF) ∧ ¬ (0x10000000 ≤ n ∧ n ≤ 0x10000007) ∧
      ¬ (0x11000000 ≤ n ∧ n ≤ 0x11000FFF) ∧ ¬ (0x11001000 ≤ n ∧ n ≤ 0x11001FFF) ∧
      ¬ (0x40000000 ≤ n ∧ n < 0x40000000 + c.mtdSize) ∧ ¬ (0x80000000 ≤ n ∧ n < 0x80000000 + c.memSize)) ∧
    (∀ n ∈ [0x1020, 0x1FFF, 0x02000000, 0x02000003, 0x02004000, 0x02004007, 0x0200BFF8, 0x0200BFFF, 0x03000000, 0x030007FF,
      0x10000000, 0x10000007], window c n ≠ .unmapped) ∧
    c.memSize ≤ 0x80000000 ∧ c.mtdSize ≤ 0x40000000 ∧ c.mtdWritable = true ∧ Config.launch.mtdWritable = false ∧
    (∀ n ∈ [0x0FFFFFFF, 0x10000008], ¬ (0x10000000 ≤ n ∧ n ≤ 0x10000007)) ∧ State.reset.mem.wf = true := by decide

/-- The clauses of TranslationBypassIsIdentity. -/
theorem witness_TranslationBypassIsIdentity :
    State.reset.mmu.mode = .off ∧ State.reset.priv = .m ∧ (Access.read ≠ .fetch) ∧
    ((paged 0#32 0#32 .m 0#32).csr csrMstatus).getLsbD 17 = false ∧ (paged 0#32 0#32 .m 0#32).mmu.mode = .sv32 ∧
    (((paged 0#32 0#32 .u 0x21800#32).csr csrMstatus).getLsbD 17 = true ∧
      ((paged 0#32 0#32 .u 0x21800#32).csr csrMstatus).extractLsb' 11 2 = 3#2) ∧
    (((paged 0#32 0#32 .u 0x21000#32).csr csrMstatus).getLsbD 17 = true ∧
      ((paged 0#32 0#32 .u 0x21000#32).csr csrMstatus).extractLsb' 11 2 = 2#2) := by decide

/-- The walk by a leaf of each level, and the effective mode of MPRV. -/
theorem witness_TranslationWalkIsExact :
    (paged 0x200014D7#32 0x2000005B#32 .u 0#32).mmu.mode = .sv32 ∧
    (translate 0x803FFFFF#32 .fetch (paged 0x200014D7#32 0x2000005B#32 .u 0#32)).1 = some 0x803FFFFF#32 ∧
    (translate 0x1000#32 .write (paged 0x200014D7#32 0x2000005B#32 .u 0#32)).1 = some 0x80005000#32 ∧
    (translate 0x1000#32 .read (paged 0x200014C7#32 0x2000005B#32 .m 0x20800#32)).1 = some 0x80005000#32 ∧
    ¬ ((paged 0x200014D7#32 0x2000005B#32 .u 0#32).priv = .m ∧ Access.write = .fetch) ∧ Priv.u.code ≠ 3#2 := by decide

/-- A host that makes one move. -/
def hostDoes (m : HostMove) : State := { st [] [] [] with host := { draws := 0, events := [], inbox := [m] } }

/-- A fetch through the tables, and one from RAM at its last word; an idle host move and a receive move. -/
theorem witness_StepRunsDecoded :
    let s := paged 0x200014D7#32 0x2000005B#32 .u 0#32
    let q := atPc 0xFFFFFFFC#32 (st [] [] [(0xFFFFFFFC, 0x13#32)])
    s.exited = none ∧ (beginTick s).pc.extractLsb' 0 2 = 0#2 ∧
    (translate (beginTick s).pc .fetch (beginTick s)).1 = some 0x80000000#32 ∧
    decode (busRead 4 0x80000000#32 (translate (beginTick s).pc .fetch (beginTick s)).2).1 = .ok (.lw 1 2 0#32) ∧
    q.host.inbox = [] ∧ q.raised = false ∧ q.mmu.mode = .off ∧ q.pc.extractLsb' 0 2 = 0#2 ∧
    (∀ k, k < 4 → window q.cfg (q.pc + BitVec.ofNat 32 k).toNat = .ram) ∧
    decode (busPeek (q.pc + 3#32) q ++ busPeek (q.pc + 2#32) q ++ busPeek (q.pc + 1#32) q ++ busPeek q.pc q) =
      .ok (.addi 0 0 0#32) ∧
    (hostDoes .idle).host.inbox = .idle :: [] ∧
    (let r := hostDoes (.receive [(0, 1#8), (4095, 2#8), (0, 3#8)] true)
     r.host.inbox = .receive [(0, 1#8), (4095, 2#8), (0, 3#8)] true :: [] ∧ r.mem.wf = true ∧
       Sparse.wf 0#32 r.csrs = true) := by decide

theorem witness_FetchExceptionsTrap :
    (st [] [] []).exited = none ∧ (beginTick (atPc 0x80000002#32 (st [] [] []))).pc.extractLsb' 0 2 ≠ 0#2 ∧
    (let s := paged 0#32 0x2000005B#32 .s 0#32
     (beginTick s).pc.extractLsb' 0 2 = 0#2 ∧ (translate (beginTick s).pc .fetch (beginTick s)).1 = none) := by decide

/-- The zero word, which no row selects, to M and to S; and a word a row selects. -/
theorem witness_IllegalWordTraps :
    (∀ s ∈ [st [] [] [], st [] [(0x302, 4#32)] []], s.exited = none ∧ Sparse.wf 0#32 (beginTick s).csrs = true ∧
      (beginTick s).pc.extractLsb' 0 2 = 0#2 ∧ (translate (beginTick s).pc .fetch (beginTick s)).1 = some 0x80000000#32 ∧
      (busRead 4 0x80000000#32 (translate (beginTick s).pc .fetch (beginTick s)).2).1 = 0#32) ∧
    opcodeRows.all (fun r => !r.selects 0#32) = true ∧ opcodeRows.any (fun r => r.selects 0x13#32) = true ∧
    GoesToM (st [] [] []) 2 ∧ Delegated (st [] [(0x302, 4#32)] []) 2 ∧ ¬ Demoted (st [] [(0x302, 4#32)] []) 2 := by
  unfold Delegated Demoted GoesToM; decide

theorem witness_TickCountsOne : ok (step State.reset) (fun _ => true) = true := by decide

/-- A step from a state with the invariant: reset itself. -/
theorem witness_StepKeepsInvariant : Inv (inMode .m State.reset) ∧ ok (step (inMode .m State.reset)) (fun _ => true) = true :=
  ⟨reset_inv .m, by decide⟩

theorem witness_ExceptionsArePrecise :
    ok (exec .ebreak (st [] [] [])) (fun t => t.raised) = true ∧ (st [] [] []).raised = false ∧
    Sparse.wf 0#32 (st [] [] []).csrs = true := by decide

/-- The mode changes by a trap, by MRET and by SRET. -/
theorem witness_PrivilegeChangesOnlyByTraps :
    ok (exec .ecall (inMode .u (st [] [] []))) (fun t => decide (t.priv ≠ .u) && t.raised) = true ∧
    ok (exec .mret (st [] [] [])) (fun t => decide (t.priv ≠ .m)) = true ∧
    ok (exec .sret (st [] [] [])) (fun t => decide (t.priv ≠ .m)) = true := by decide

/-- Both refusals, and an exception of each way to raise one: by rule, by a denied CSR, by a page that does not
translate. -/
theorem witness_StopsOnlyByRule :
    Raises .ebreak (st [] [] []) .breakpoint 0x80000000#32 (st [] [] []) ∧
    Raises (.csrrs 1 2 0xC00#12) (st [] [] []) .illegalInstruction 0xC00120F3#32 (st [] [] []) ∧
    Raises (.lw 1 0 0x1000#32) (paged 0#32 0#32 .u 0#32) .loadPageFault 0x1000#32 (paged 0#32 0#32 .u 0#32) ∧
    refusedAs (exec .mret (st [] [(0x300, 0x1000#32)] [])) .mretToReservedMode = true ∧
    refusedAs (exec .ebreak (st [] [(0x302, 8#32), (0x102, 8#32)] [])) .trapToUser = true :=
  ⟨.ebreak, .csrModify (rd := 1) (field := 2) (csr := 0xC00#12) (by decide) (by unfold CsrDenied; decide),
    .load (rd := 1) (rs1 := 0) (imm := 0x1000#32) (by decide) (by decide), by decide, by decide⟩

end Sys2Proof.Tests
end

/-!
What one instruction can do, said once: `exec_result` sorts every answer of `exec` into the few shapes of `ExecResult`.
The safety claims are case splits on it.
-/
namespace Sys2Proof.Machine

/-! ### Accesses -/

/-- `u` is `s` after the translations, bus reads and writes, CSR reads and reservation updates of one instruction. -/
inductive Accesses (s : State) : State → Prop where
  | refl : Accesses s s
  | translate {u : State} (va : Word) (acc : Access) (h : Accesses s u) : Accesses s (translate va acc u).2
  | busRead {u : State} (n : Nat) (pa : Word) (h : Accesses s u) : Accesses s (busRead n pa u).2
  | busWrite {u : State} (n : Nat) (pa v : Word) (h : Accesses s u) : Accesses s (busWrite n pa v u)
  | csrRead {u : State} (a : CsrAddr) (h : Accesses s u) : Accesses s (csrRead a u).2
  | reserve {u : State} (r : Option Word) (h : Accesses s u) : Accesses s { u with reservation := r }

/-- Of the CSRs a bus write changes mip at most (60_exceptions.md R433). -/
theorem busWrite_csr {s : State} (h : Sparse.wf 0#32 s.csrs = true) (n : Nat) (pa v : Word) {a : CsrAddr} (ha : a ≠ csrMip) :
    (busWrite n pa v s).csr a = s.csr a := by
  induction n generalizing pa v s with
  | zero => rfl
  | succ n ih => exact (ih (busWriteByte_csrs_wf h _ _) _ _).trans (busWriteByte_csr h pa _ a ha)

namespace Accesses

variable {s u : State}

/-- An access leaves the mode, the MMU and the mark `exited`. -/
theorem frame (h : Accesses s u) : u.priv = s.priv ∧ u.mmu = s.mmu ∧ u.exited = s.exited := by
  induction h with
  | refl => exact ⟨rfl, rfl, rfl⟩
  | reserve r h ih => exact ih
  | _ => simpa

theorem csrs_wf (h : Accesses s u) (hs : Sparse.wf 0#32 s.csrs = true) : Sparse.wf 0#32 u.csrs = true := by
  induction h with
  | refl => exact hs
  | busWrite n pa v h ih => exact busWrite_csrs_wf n pa v ih
  | reserve r h ih => exact ih
  | _ => simpa

/-- Of the CSRs an access changes mip at most (60_exceptions.md R433). -/
theorem csr_eq (h : Accesses s u) (hs : Sparse.wf 0#32 s.csrs = true) {a : CsrAddr} (ha : a ≠ csrMip) :
    u.csr a = s.csr a := by
  induction h with
  | refl => rfl
  | busWrite n pa v h ih => rw [busWrite_csr (h.csrs_wf hs) n pa v ha, ih]
  | reserve r h ih => exact ih
  | _ => simpa

end Accesses

/-! ### The state an exception is raised in -/

namespace Raises

variable {i : Instr} {s s1 : State} {e : Exc} {tval : Word}

/-- An instruction raises its exception in the state it starts from, or in the one its address translation left. -/
theorem state_cases (h : Raises i s e tval s1) : s1 = s ∨ ∃ va acc, s1 = (translate va acc s).2 := by
  cases h with
  | load _ ht | store _ ht | loadReserved ht | storeConditional _ ht | amo _ ht =>
    exact .inr ⟨_, _, (congrArg Prod.snd ht).symm⟩
  | _ => exact .inl rfl

theorem accesses (h : Raises i s e tval s1) : Accesses s s1 := by
  obtain rfl | ⟨va, acc, rfl⟩ := h.state_cases
  · exact .refl
  · exact .translate va acc .refl

theorem state_eq (h : Raises i s e tval s1) : s1 = { s with uart := s1.uart } := by
  obtain rfl | ⟨va, acc, rfl⟩ := h.state_cases
  · rfl
  · exact translate_snd va acc s

end Raises

/-! ### The shapes of an answer -/

theorem CsrKind.writes_write (field : BitVec 5) : CsrKind.writes .write field = true ↔ True := by simp [CsrKind.writes]

theorem CsrKind.writes_of_ne_write {kind : CsrKind} (h : kind ≠ .write) (field : BitVec 5) :
    kind.writes field = true ↔ field ≠ 0#5 := by simp [CsrKind.writes, h]

/-- All that `exec i s` can answer. -/
inductive ExecResult (i : Instr) (s : State) : Result → Prop where
  /-- accesses, then a register write (to x0 where there is none) and the next pc -/
  | retires {u : State} (rd : Reg) (v next : Word) (h : Accesses s u) :
      ExecResult i s (.next { u.setReg rd v with pc := next })
  /-- a permitted CSR write, with the old value for rd -/
  | writesCsr (rd : Reg) (v w : Word) (csr : CsrAddr) (hp : csrPrivOk csr s.priv = true) (hr : csrReadOnly csr = false) :
      ExecResult i s (retire rd v (csrWrite csr w (csrRead csr s).2))
  /-- the gated exit of ECALL -/
  | exits (status : Word) : ExecResult i s (.next { s with exited := some status })
  | mretReturns (prev : Priv) (hi : i = .mret) (hp : ¬ (s.cfg.xretPrivCheck = true ∧ s.priv ≠ .m)) (ms pc : Word) :
      ExecResult i s (.next (trapReturn ms prev pc s))
  | sretReturns (prev : Priv) (hi : i = .sret) (hp : ¬ (s.cfg.xretPrivCheck = true ∧ s.priv = .u)) (ms pc : Word) :
      ExecResult i s (.next (trapReturn ms prev pc s))
  | mretRefused (hi : i = .mret) (hp : ¬ (s.cfg.xretPrivCheck = true ∧ s.priv ≠ .m))
      (hm : Priv.ofCode (mppOf (s.csr csrMstatus)) = none) : ExecResult i s (.refused .mretToReservedMode)
  /-- the exception of the table `Raises` -/
  | raises {e : Exc} {tval : Word} {s1 : State} {r : Result} (h : Raises i s e tval s1) (hr : takeException e tval s1 = r) :
      ExecResult i s r

namespace ExecResult

variable {i : Instr} {s u : State}

theorem of_retire (rd : Reg) (v : Word) (h : Accesses s u) : ExecResult i s (retire rd v u) :=
  .retires rd v (u.pc + 4#32) h

theorem of_pc (next : Word) (h : Accesses s u) : ExecResult i s (.next { u with pc := next }) :=
  .retires 0#5 0#32 next h

theorem of_loadOp {n : Nat} {ext : Word → Word} {rd : Reg} {addr : Word}
    (hf : ∀ s1, translate addr .read s = (none, s1) → Raises i s .loadPageFault addr s1) :
    ExecResult i s (loadOp n ext rd addr s) := by
  cases ht : (translate addr .read s).1 with
  | none => rw [loadOp_fault ht]; exact .raises (hf _ (Prod.ext ht rfl)) rfl
  | some pa => rw [loadOp_hit ht]; exact of_retire _ _ (.busRead _ _ (.translate _ _ .refl))

theorem of_storeOp {n : Nat} {v addr : Word}
    (hf : ∀ s1, translate addr .write s = (none, s1) → Raises i s .storePageFault addr s1) :
    ExecResult i s (storeOp n v addr s) := by
  cases ht : (translate addr .write s).1 with
  | none => rw [storeOp_fault ht]; exact .raises (hf _ (Prod.ext ht rfl)) rfl
  | some pa => rw [storeOp_hit ht]; exact of_pc _ (.busWrite _ _ _ (.translate _ _ .refl))

theorem of_amoOp {op : Word → Word → Word} {rd rs1 rs2 : Reg}
    (hf : ∀ s1, translate (s.reg rs1) .write s = (none, s1) → Raises i s .storePageFault (s.reg rs1) s1) :
    ExecResult i s (amoOp op rd rs1 rs2 s) := by
  cases ht : (translate (s.reg rs1) .write s).1 with
  | none => rw [amoOp_fault ht]; exact .raises (hf _ (Prod.ext ht rfl)) rfl
  | some pa => rw [amoOp_hit ht]; exact of_retire _ _ (.busWrite _ _ _ (.busRead _ _ (.translate _ _ .refl)))

theorem of_csrOp {kind : CsrKind} {w : Word} {rd : Reg} {field : BitVec 5} {src : Word} {csr : CsrAddr}
    (hf : csrAllowed kind field csr s.priv = false → Raises i s .illegalInstruction w s) :
    ExecResult i s (csrOp kind w rd field src csr s) := by
  cases ha : csrAllowed kind field csr s.priv with
  | false => rw [csrOp_denied ha]; exact .raises (hf ha) rfl
  | true =>
    rw [csrOp_allowed ha]
    obtain ⟨hp, hw⟩ : csrPrivOk csr s.priv = true ∧ (kind.writes field = true → csrReadOnly csr = false) := by
      simpa [csrAllowed, imp_iff_not_or] using ha
    split
    · next hk => exact .writesCsr _ _ _ _ hp (hw hk)
    · exact of_retire _ _ (.csrRead _ .refl)

end ExecResult

/-! ### The instructions with a shape of their own -/

section

variable (s : State)

theorem execLrW_result (rd rs1 : Reg) (aq rl : Bool) : ExecResult (.lrW rd rs1 aq rl) s (execLrW rd rs1 aq rl s) := by
  unfold execLrW
  cases ht : translate (s.reg rs1) .read s with
  | mk o s1 =>
    have h1 : Accesses s s1 := by simpa [ht] using Accesses.translate (s.reg rs1) .read (.refl (s := s))
    cases o with
    | none => exact .raises (.loadReserved ht) rfl
    | some pa => exact .of_retire _ _ (.reserve _ (.busRead _ _ h1))

theorem execScW_result (rd rs1 rs2 : Reg) (aq rl : Bool) :
    ExecResult (.scW rd rs1 rs2 aq rl) s (execScW rd rs1 rs2 aq rl s) := by
  unfold execScW
  split
  · next hres =>
    cases ht : translate (s.reg rs1) .write s with
    | mk o s1 =>
      have h1 : Accesses s s1 := by simpa [ht] using Accesses.translate (s.reg rs1) .write (.refl (s := s))
      cases o with
      | none => exact .raises (.storeConditional hres ht) rfl
      | some pa => exact .of_retire _ _ (.reserve _ (.busWrite _ _ _ h1))
  · exact .of_retire _ _ .refl

theorem execEcall_result : ExecResult .ecall s (execEcall s) := by
  unfold execEcall
  split
  · exact .exits _
  · next h => exact .raises (.ecall h (by cases s.priv <;> simp [ecallExc])) rfl

theorem execMret_result : ExecResult .mret s (execMret s) := by
  unfold execMret
  split
  · next h => exact .raises (.mret h.1 h.2) rfl
  · next h =>
    cases hm : Priv.ofCode (mppOf (s.csr csrMstatus)) with
    | none => exact .mretRefused rfl h hm
    | some prev => exact .mretReturns prev rfl h _ _

theorem execSret_result : ExecResult .sret s (execSret s) := by
  unfold execSret
  split
  · next h => exact .raises (.sret h.1 h.2) rfl
  · next h => exact .sretReturns _ rfl h _ _

end

/-- Every answer of every instruction has one of the shapes. -/
theorem exec_result (i : Instr) (s : State) : ExecResult i s (exec i s) := by
  have denied {kind : CsrKind} {f : BitVec 5} {csr : CsrAddr} (hk : kind ≠ .write) :=
    (csrAllowed_false_iff (CsrKind.writes_of_ne_write hk f) csr s).1
  unfold exec
  cases i with
  | jal rd imm => exact .retires rd _ _ .refl
  | jalr rd rs1 imm => exact .retires rd _ _ .refl
  | beq | bne | blt | bge | bltu | bgeu | fence | fenceI | sfenceVma | wfi => exact .of_pc _ .refl
  | lb rd rs1 imm | lh rd rs1 imm | lw rd rs1 imm | lbu rd rs1 imm | lhu rd rs1 imm =>
    exact .of_loadOp fun s1 h => .load (rd := rd) (rs1 := rs1) (imm := imm) (by simp) h
  | sb rs1 rs2 imm | sh rs1 rs2 imm | sw rs1 rs2 imm =>
    exact .of_storeOp fun s1 h => .store (rs1 := rs1) (rs2 := rs2) (imm := imm) (by simp) h
  | ecall => exact execEcall_result s
  | ebreak => exact .raises .ebreak rfl
  | mret => exact execMret_result s
  | sret => exact execSret_result s
  | csrrw rd f csr | csrrwi rd f csr =>
    exact .of_csrOp fun h =>
      .csrWrite (rd := rd) (field := f) (by simp) ((csrAllowed_false_iff (CsrKind.writes_write f) csr s).1 h)
  | csrrs rd f csr | csrrsi rd f csr | csrrc rd f csr | csrrci rd f csr =>
    exact .of_csrOp fun h => .csrModify (rd := rd) (field := f) (by simp) (denied (by decide) h)
  | lrW rd rs1 aq rl => exact execLrW_result s rd rs1 aq rl
  | scW rd rs1 rs2 aq rl => exact execScW_result s rd rs1 rs2 aq rl
  | amoswapW rd rs1 rs2 aq rl | amoaddW rd rs1 rs2 aq rl | amoxorW rd rs1 rs2 aq rl | amoandW rd rs1 rs2 aq rl
  | amoorW rd rs1 rs2 aq rl | amominW rd rs1 rs2 aq rl | amomaxW rd rs1 rs2 aq rl | amominuW rd rs1 rs2 aq rl
  | amomaxuW rd rs1 rs2 aq rl =>
    exact .of_amoOp fun s1 h => .amo (rd := rd) (rs1 := rs1) (rs2 := rs2) (aq := aq) (rl := rl) (by simp) h
  | _ => exact .of_retire _ _ .refl

theorem ExecResult.of_exec {i : Instr} {s : State} {r : Result} (h : exec i s = r) : ExecResult i s r := h ▸ exec_result i s

end Sys2Proof.Machine

/-!
The invariant between ticks, field by field, and that every operation a tick is made of keeps it. `Kept` is `Inv` without
its last clause, so it speaks of the states within a tick too.
-/
namespace Sys2Proof.Machine

/-! ### The CSR file -/

/-- What `Inv` asks of the CSR file (10_state.md R27, R38, R41, R47). -/
structure CsrsOk (f : CsrFile) : Prop where
  wf : Sparse.wf 0#32 f = true
  place : ∀ c ∈ f, c.1 < 4096
  mideleg : Sparse.read 0#32 f csrMideleg.toNat &&& ~~~0x666#32 = 0#32
  unstored : ∀ a : CsrAddr, csrUnstored a = true → Sparse.read 0#32 f a.toNat = 0#32

/-- A write to an address that has contents, within mideleg's mask if it goes to mideleg, keeps the CSR file's form. -/
theorem CsrsOk.write {f : CsrFile} (h : CsrsOk f) {a : CsrAddr} {v : Word} (ha : csrUnstored a = false)
    (hv : a = csrMideleg → v &&& ~~~0x666#32 = 0#32) : CsrsOk (Sparse.write 0#32 f a.toNat v) where
  wf := Sparse.wf_write h.wf _ _
  place c hc := by
    rcases Sparse.mem_write hc with rfl | hc
    · exact a.isLt
    · exact h.place c hc
  mideleg := by
    rw [Sparse.read_write h.wf]
    split
    · next e => exact hv (BitVec.eq_of_toNat_eq e.symm)
    · exact h.mideleg
  unstored b hb := by
    rw [Sparse.read_write h.wf]
    split
    · next e => rw [BitVec.eq_of_toNat_eq e, ha] at hb; cases hb
    · exact h.unstored b hb

/-! ### The UART -/

theorem uartOk_iff (u : Uart) :
    uartOk u = true ↔ u.lsr &&& 0xDE#8 = 0x40#8 ∧ (u.rxIp = true → u.lsr.getLsbD 0 = true) ∧
      (u.lsr.getLsbD 0 = false → u.rbr = 0#8) ∧ (u.threIp = true → u.lsr.getLsbD 5 = true) ∧
      (u.lsr.getLsbD 5 = true → u.thr = 0#8) := by
  simp only [uartOk, Bool.and_eq_true, Bool.or_eq_true, Bool.not_eq_true', beq_iff_eq, and_assoc]
  cases u.rxIp <;> cases u.lsr.getLsbD 0 <;> cases u.threIp <;> cases u.lsr.getLsbD 5 <;> simp

/-- LSR's bits 0 and 5 are no part of the mask of its fixed bits. -/
theorem putBit_and_fixed (lsr : Byte) (b : Bool) {k : Nat} (hk : k = 0 ∨ k = 5) :
    putBit lsr k b &&& 0xDE#8 = lsr &&& 0xDE#8 := by
  apply BitVec.eq_of_getLsbD_eq
  intro i hi
  rw [BitVec.getLsbD_and, BitVec.getLsbD_and, getLsbD_putBit _ _ _ _ (by omega)]
  split
  · next e => subst e; rcases hk with rfl | rfl <;> simp
  · rfl

theorem uartOk_readEffect (o : Nat) {u : Uart} (h : uartOk u = true) : uartOk (uartReadEffect o u) = true := by
  obtain ⟨hfix, hrx, hrbr, hthre, hthr⟩ := (uartOk_iff u).1 h
  unfold uartReadEffect
  split
  · split
    · exact h
    · simpa [-BitVec.getLsbD_eq_getElem, uartOk_iff, putBit_and_fixed, getLsbD_putBit, hfix]
        using ⟨hthre, hthr⟩
  · split
    · exact (uartOk_iff _).2 ⟨hfix, hrx, hrbr, nofun, hthr⟩
    · exact h
  · exact h

theorem uartOk_write (o : Nat) (b : Byte) {u : Uart} (h : uartOk u = true) : uartOk (uartWrite o b u) = true := by
  obtain ⟨hfix, hrx, hrbr, -, -⟩ := (uartOk_iff u).1 h
  unfold uartWrite
  split
  · split
    · exact h
    · simpa [-BitVec.getLsbD_eq_getElem, uartOk_iff, putBit_and_fixed, getLsbD_putBit, hfix]
        using ⟨hrx, hrbr⟩
  · split <;> exact h
  all_goals exact h

theorem uartOk_sent {u : Uart} (h : uartOk u = true) : uartOk (uartSent u) = true := by
  obtain ⟨hfix, hrx, hrbr, -, -⟩ := (uartOk_iff u).1 h
  simpa [-BitVec.getLsbD_eq_getElem, uartSent, uartOk_iff, putBit_and_fixed, getLsbD_putBit, hfix]
    using ⟨hrx, hrbr⟩

theorem uartOk_received (b : Byte) {u : Uart} (h : uartOk u = true) : uartOk (uartReceived b u) = true := by
  obtain ⟨hfix, -, -, hthre, hthr⟩ := (uartOk_iff u).1 h
  simpa [-BitVec.getLsbD_eq_getElem, uartReceived, uartOk_iff, putBit_and_fixed, getLsbD_putBit, hfix]
    using ⟨hthre, hthr⟩

/-! ### The memory -/

/-- What `Inv` asks of the memory (20_memory.md R70, R80). -/
structure MemoryOk (c : Launch) (m : Memory) : Prop where
  wf : m.wf = true
  place : ∀ e ∈ m, e.1 < 4294967296 ∧ storageAt c e.1 = true

theorem MemoryOk.write {c : Launch} {m : Memory} (h : MemoryOk c m) {a : Nat} (b : Byte) (hlt : a < 4294967296)
    (ha : storageAt c a = true) : MemoryOk c (m.write a b) where
  wf := Memory.wf_write h.wf a b
  place e he := by
    rcases Sparse.mem_write he with rfl | he
    · exact ⟨hlt, ha⟩
    · exact h.place e he

/-- Every offset of the network RX buffer is plain storage, whatever the launch parameters. -/
theorem storageAt_netRx (c : Launch) {o : Nat} (ho : o < 4096) : storageAt c (0x11001000 + o) = true := by
  have hw : window c (0x11001000 + o) = .netRx := by
    unfold window
    repeat rw [if_neg (by omega)]
    rw [if_pos (by omega)]
  simp [storageAt, hw]

/-- A received frame goes into the RX buffer only. -/
theorem MemoryOk.receive {c : Launch} (bytes : List (Fin 4096 × Byte)) {m : Memory} (h : MemoryOk c m) :
    MemoryOk c (bytes.foldl (fun mem e => mem.write (0x11001000 + e.1.val) e.2) m) := by
  induction bytes generalizing m with
  | nil => exact h
  | cons e bytes ih => exact ih (h.write e.2 (by omega) (storageAt_netRx c e.1.isLt))

/-! ### The whole state -/

/-- `Inv` without its last clause. -/
structure Kept (s : State) : Prop where
  memory : MemoryOk s.cfg s.mem
  csrs : CsrsOk s.csrs
  zero : s.regs[0] = 0#32
  uart : uartOk s.uart = true

theorem inv_iff (s : State) : Inv s ↔ Kept s ∧ s.raised = false :=
  ⟨fun h => ⟨⟨⟨h.memory, h.memoryPlace⟩, ⟨h.csrFile, h.csrPlace, h.mideleg, h.unstored⟩, h.zero, h.uart⟩, h.settled⟩,
    fun ⟨⟨⟨mwf, mplace⟩, ⟨cwf, cplace, hmid, huns⟩, hz, hu⟩, hr⟩ => ⟨mwf, mplace, cwf, cplace, hz, hmid, huns, hu, hr⟩⟩

namespace Kept

variable {s : State}

/-- `Kept` looks at the launch parameters, the memory, the CSR file, the registers and the UART only. -/
theorem congr {t : State} (h : Kept s) (hcfg : t.cfg = s.cfg) (hmem : t.mem = s.mem) (hcsrs : t.csrs = s.csrs)
    (hregs : t.regs = s.regs) (huart : t.uart = s.uart) : Kept t :=
  ⟨hcfg ▸ hmem ▸ h.memory, hcsrs ▸ h.csrs, by simpa only [hregs] using h.zero, huart ▸ h.uart⟩

theorem setReg (h : Kept s) (rd : Reg) (v : Word) : Kept (s.setReg rd v) where
  memory := h.memory
  csrs := h.csrs
  zero := by
    have hz := h.zero
    by_cases h0 : rd = 0#5
    · simpa [h0] using hz
    · have : rd.toNat ≠ 0 := fun e => h0 (BitVec.eq_of_toNat_eq e)
      simpa [h0, this] using hz
  uart := h.uart

theorem setCsr (h : Kept s) {a : CsrAddr} {v : Word} (ha : csrUnstored a = false)
    (hv : a = csrMideleg → v &&& ~~~0x666#32 = 0#32) : Kept (s.setCsr a v) :=
  ⟨h.memory, h.csrs.write ha hv, h.zero, h.uart⟩

/-- Only mideleg restricts what a stored address holds. -/
theorem setPlain (h : Kept s) (a : CsrAddr) (v : Word) (ha : (csrUnstored a || a == csrMideleg) = false) :
    Kept (s.setCsr a v) := by
  rw [Bool.or_eq_false_iff, beq_eq_false_iff_ne] at ha
  exact h.setCsr ha.1 fun e => absurd e ha.2

theorem setMip (h : Kept s) (p : Nat) (b : Bool) : Kept (s.setMip p b) :=
  h.setPlain csrMip _ rfl

theorem withUart (h : Kept s) {u : Uart} (hu : uartOk u = true) : Kept { s with uart := u } :=
  ⟨h.memory, h.csrs, h.zero, hu⟩

theorem withMemory (h : Kept s) {m : Memory} (hm : MemoryOk s.cfg m) : Kept { s with mem := m } :=
  ⟨hm, h.csrs, h.zero, h.uart⟩

/-! Bus and translation -/

theorem busReadEffect (h : Kept s) (pa : Word) : Kept (busReadEffect pa s) := by
  unfold Machine.busReadEffect
  split
  · exact h.withUart (uartOk_readEffect _ h.uart)
  · exact h

theorem busRead (n : Nat) (pa : Word) (h : Kept s) : Kept (busRead n pa s).2 := by
  induction n generalizing pa s with
  | zero => exact h
  | succ n ih => exact ih (pa + 1#32) (h.busReadEffect pa)

theorem clintWrite (h : Kept s) (o : Nat) (b : Byte) : Kept (clintWrite o b s) := by
  have any (c : Clint) : Kept { s with clint := c } := h.congr rfl rfl rfl rfl rfl
  unfold Machine.clintWrite
  split
  · exact (any _).setMip _ _
  · split
    · exact ((any _).setMip _ _).setMip _ _
    · split
      · exact any _
      · exact h

theorem storeByte (h : Kept s) {pa : Word} (b : Byte) (ha : storageAt s.cfg pa.toNat = true) :
    Kept { s with mem := s.mem.write pa.toNat b } :=
  h.withMemory (h.memory.write b pa.isLt ha)

theorem busWriteByte (h : Kept s) (pa : Word) (b : Byte) : Kept (busWriteByte pa b s) := by
  unfold Machine.busWriteByte
  split
  · next hw => exact h.storeByte b (by simp [storageAt, hw])
  · exact h
  · exact h.clintWrite _ _
  · rw [rtcWrite_eq]; exact h.congr rfl rfl rfl rfl rfl
  · exact h.withUart (uartOk_write _ _ h.uart)
  · next hw => exact h.storeByte b (by simp [storageAt, hw])
  · next hw => exact h.storeByte b (by simp [storageAt, hw])
  · next hw =>
    split
    · exact h.storeByte b (by simp [storageAt, hw])
    · exact h
  · exact h

theorem busWrite (n : Nat) (pa v : Word) (h : Kept s) : Kept (busWrite n pa v s) := by
  induction n generalizing pa v s with
  | zero => exact h
  | succ n ih => exact ih (pa + 1#32) (v >>> 8) (h.busWriteByte pa _)

theorem walk (va : Word) (acc : Access) (eff : BitVec 2) (h : Kept s) : Kept (walk va acc eff s).2 := by
  have h1 := h.busRead 4 (pteAddr s.mmu.ppn (vpn1 va))
  unfold Machine.walk
  dsimp only
  split
  · exact h1
  · split
    · exact h1
    · have h0 := h1.busRead 4 (pteAddr (ptePpn (Machine.busRead 4 (pteAddr s.mmu.ppn (vpn1 va)) s).1) (vpn0 va))
      split
      · exact h0
      · exact h0

theorem translate (va : Word) (acc : Access) (h : Kept s) : Kept (translate va acc s).2 := by
  unfold Machine.translate
  split
  · exact h
  · split
    · exact h
    · exact h.walk va acc _

/-! CSR reads and writes -/

theorem csrRead (a : CsrAddr) (h : Kept s) : Kept (csrRead a s).2 := by
  rw [csrRead_snd_host]; exact h.congr rfl rfl rfl rfl rfl

/-- A write to an address that is not read-only keeps the CSR file's form: the views write their register, mideleg has its
mask, the constants drop the write. -/
theorem csrWrite (h : Kept s) {a : CsrAddr} (hr : csrReadOnly a = false) (v : Word) : Kept (csrWrite a v s) := by
  have masked : v &&& midelegMask &&& ~~~0x666#32 = 0#32 := by
    rw [BitVec.and_assoc, show midelegMask &&& ~~~0x666#32 = 0#32 by decide, BitVec.and_zero]
  unfold Machine.csrWrite
  split_ifs with hsst hsie hsip hmid hsatp hdrop hsend
  · exact h.setPlain csrMstatus _ rfl
  · exact h.setPlain csrMie _ rfl
  · exact h.setPlain csrMip _ rfl
  · exact h.setCsr (by decide) fun _ => masked
  · exact h.congr rfl rfl rfl rfl rfl
  · exact h
  · exact (h.setPlain csrNetTxSend v rfl).congr rfl rfl rfl rfl rfl
  · exact h.setCsr (by simp_all [csrUnstored]) fun e => absurd e hmid

/-! Traps -/

theorem deliver (target : Priv) (pos : Nat) (cause tval epc : Word) (h : Kept s) :
    Kept (deliver target pos cause tval epc s) := by
  by_cases ht : target = .m
  · subst ht
    rw [deliver_m]
    have h4 := (((h.setPlain csrMepc epc rfl).setPlain csrMcause cause rfl).setPlain csrMtval tval rfl).setPlain csrMstatus
      (mstatusEnterM (s.csr csrMstatus) s.priv) rfl
    exact h4.congr rfl rfl rfl rfl rfl
  · simp only [Machine.deliver, ht, if_false]
    have h4 := (((h.setPlain csrSepc epc rfl).setPlain csrScause cause rfl).setPlain csrStval tval rfl).setPlain csrMstatus
      (mstatusEnterS (s.csr csrMstatus) s.priv) rfl
    exact h4.congr rfl rfl rfl rfl rfl

theorem trapReturn (h : Kept s) (ms : Word) (prev : Priv) (target : Word) : Kept (trapReturn ms prev target s) :=
  (h.setPlain csrMstatus ms rfl).congr rfl rfl rfl rfl rfl

theorem takeException {e : Exc} {tval : Word} {t : State} (h : Kept s) (ht : takeException e tval s = .next t) : Kept t := by
  rcases takeException_cases s e tval with ⟨-, hx⟩ | ⟨p, -, -, hx⟩
  · rw [hx] at ht; cases ht
  · rw [hx] at ht; cases ht; exact (h.deliver p _ _ tval s.pc).congr rfl rfl rfl rfl rfl

/-! Instructions -/

theorem accesses {u : State} (h : Kept s) (ha : Accesses s u) : Kept u := by
  induction ha with
  | refl => exact h
  | translate va acc _ ih => exact ih.translate va acc
  | busRead n pa _ ih => exact ih.busRead n pa
  | busWrite n pa v _ ih => exact ih.busWrite n pa v
  | csrRead a _ ih => exact ih.csrRead a
  | reserve r _ ih => exact ih.congr rfl rfl rfl rfl rfl

end Kept

end Sys2Proof.Machine

/-!
The invariant over a whole tick: the host's move, the fetch, the instruction, the devices and the interrupts each keep
`Kept`, and a tick ends with `raised` cleared.
-/
namespace Sys2Proof.Machine

namespace Kept

variable {s t : State}

theorem exec {i : Instr} (h : Kept s) (he : exec i s = .next t) : Kept t := by
  cases ExecResult.of_exec he with
  | retires rd v next ha => exact ((h.accesses ha).setReg rd v).congr rfl rfl rfl rfl rfl
  | writesCsr rd v w csr hp hr => exact (((h.csrRead csr).csrWrite hr w).setReg rd v).congr rfl rfl rfl rfl rfl
  | exits status => exact h.congr rfl rfl rfl rfl rfl
  | mretReturns prev hi hp ms pc => exact h.trapReturn ms prev pc
  | sretReturns prev hi hp ms pc => exact h.trapReturn ms prev pc
  | raises hraises hr => exact (h.accesses hraises.accesses).takeException hr

theorem hostMove (m : HostMove) (h : Kept s) : Kept (hostMove m s) := by
  cases m with
  | idle => exact h
  | receive bytes seip =>
    have hm := h.withMemory (h.memory.receive bytes)
    cases seip with
    | false => exact hm
    | true => exact hm.setMip 9 true

theorem beginTick (h : Kept s) : Kept (beginTick s) := by
  suffices hm : Kept (takeHostMove s) from hm.congr rfl rfl rfl rfl rfl
  unfold takeHostMove
  split
  · exact h
  · exact Kept.hostMove _ (h.congr rfl rfl rfl rfl rfl)

theorem fetch (h : Kept s) : Kept (fetch s).2 := by
  unfold Machine.fetch
  split
  · exact h
  · have h1 := h.translate s.pc .fetch
    split
    · next ht => simpa only [ht] using h1
    · next pa s1 ht =>
      rw [ht] at h1
      dsimp only
      split <;> exact h1.busRead 4 pa

theorem runFetched {f : Fetched} (h : Kept s) (hr : runFetched (f, s) = .next t) : Kept t := by
  cases f with
  | instr i => exact h.exec hr
  | trap e tval => exact h.takeException hr

/-! Devices and interrupts -/

theorem clintTick (h : Kept s) : Kept (clintTick s) := by
  have hm : Kept (mtimeTick s) := h.congr rfl rfl rfl rfl rfl
  have ht : Kept (timerIrq (mtimeTick s)) := by
    unfold timerIrq
    split
    · exact hm.setMip 7 true
    · exact hm
  unfold Machine.clintTick softwareIrq
  split
  · exact ht.setMip 3 true
  · exact ht

theorem uartTransmit (h : Kept s) : Kept (uartTransmit s) := by
  unfold Machine.uartTransmit
  split
  · exact (h.withUart (uartOk_sent h.uart)).congr rfl rfl rfl rfl rfl
  · exact h

theorem uartReceive (h : Kept s) : Kept (uartReceive s) := by
  unfold Machine.uartReceive
  split
  · cases Config.uartIn s.host.draws with
    | none => exact h.congr rfl rfl rfl rfl rfl
    | some b => exact (h.withUart (uartOk_received b h.uart)).congr rfl rfl rfl rfl rfl
  · exact h

theorem deviceTick (h : Kept s) : Kept (deviceTick s) := by
  have hu := h.clintTick.uartTransmit.uartReceive
  unfold Machine.deviceTick uartIrq
  split
  · exact hu.setMip 9 true
  · exact hu

theorem deliverInterrupt (target : Priv) (p : Nat) (h : Kept s) : Kept (deliverInterrupt target p s) := by
  have hd := h.deliver target p (0x80000000#32 ||| BitVec.ofNat 32 p) 0#32 s.pc
  unfold Machine.deliverInterrupt
  dsimp only
  split
  · exact hd.setMip p false
  · exact hd

end Kept

/-! ### The mark `raised` -/

theorem takeException_raised {e : Exc} {tval : Word} {s t : State} (h : takeException e tval s = .next t) :
    t.raised = true ∧ t.exited = s.exited := by
  rcases takeException_cases s e tval with ⟨-, hx⟩ | ⟨p, -, -, hx⟩
  · rw [hx] at h; cases h
  · rw [hx] at h; cases h; simp

/-- An instruction does not both end the run and raise an exception. -/
theorem exec_raised_or_exited {i : Instr} {s t : State} (h : exec i s = .next t) :
    t.exited = s.exited ∨ t.raised = s.raised := by
  cases ExecResult.of_exec h with
  | retires rd v next ha =>
    obtain ⟨-, -, hexited⟩ := ha.frame
    exact .inl hexited
  | writesCsr rd v w csr hp hr => exact .inl (by simp)
  | exits status => exact .inr rfl
  | mretReturns prev hi hp ms pc => exact .inl rfl
  | sretReturns prev hi hp ms pc => exact .inl rfl
  | raises hraises hr =>
    obtain ⟨-, -, hexited⟩ := hraises.accesses.frame
    exact .inl ((takeException_raised hr).2.trans hexited)

theorem runFetched_raised_or_exited {f : Fetched} {s t : State} (h : runFetched (f, s) = .next t) :
    t.exited = s.exited ∨ t.raised = s.raised := by
  cases f with
  | instr i => exact exec_raised_or_exited h
  | trap e tval => exact .inl (takeException_raised h).2

/-- What an interrupt may add at the end of a tick keeps the invariant. -/
theorem resolveInterrupt_inv {s t : State} (h : Kept s) (hr : s.raised = false) (ht : resolveInterrupt s = .next t) :
    Inv t := by
  rw [inv_iff]
  cases hc : interruptCandidate s with
  | none => rw [resolveInterrupt_none hc] at ht; cases ht; exact ⟨h, hr⟩
  | some p =>
    obtain ⟨-, hx⟩ | ⟨q, -, -, ⟨-, hx⟩ | ⟨-, hx⟩⟩ := resolveInterrupt_some hc
    · rw [hx] at ht; cases ht
    · rw [hx] at ht; cases ht; exact ⟨h, hr⟩
    · rw [hx] at ht; cases ht
      refine ⟨h.deliverInterrupt q p, ?_⟩
      unfold deliverInterrupt
      dsimp only
      split <;> simpa

/-- The end of a tick: the run has ended without an exception, or the devices move and `raised` is cleared. -/
theorem finishTick_inv {s t : State} (h : Kept s) (hr : s.exited = none ∨ s.raised = false) (ht : finishTick s = .next t) :
    Inv t := by
  cases hx : s.exited with
  | some v =>
    rw [finishTick_exited (by simp [hx])] at ht; cases ht
    exact (inv_iff s).2 ⟨h, hr.resolve_left (by simp [hx])⟩
  | none =>
    cases hraised : s.raised with
    | true =>
      rw [finishTick_raised hx hraised] at ht; cases ht
      exact (inv_iff _).2 ⟨h.deviceTick.congr rfl rfl rfl rfl rfl, rfl⟩
    | false =>
      rw [finishTick_retired hx hraised] at ht
      exact resolveInterrupt_inv h.deviceTick (by simpa using hraised) ht

/-- Settles O57: the parts of a tick keep `Kept` one after the other, and the tick's end clears `raised`. -/
theorem stepKeepsInvariant : Obligations.StepKeepsInvariant := by
  intro s t hinv hstep
  obtain ⟨hx, u, hrun, hend⟩ := step_next hstep
  have hfetch : Kept (fetch (beginTick s)).2 := ((inv_iff s).1 hinv).1.beginTick.fetch
  have hexited : (fetch (beginTick s)).2.exited = none := by rw [fetch_snd, beginTick_eq]; exact hx
  have hraised : (fetch (beginTick s)).2.raised = false := by rw [fetch_snd]; rfl
  refine finishTick_inv (hfetch.runFetched hrun) ?_ hend
  exact (runFetched_raised_or_exited hrun).imp (·.trans hexited) (·.trans hraised)

end Sys2Proof.Machine

/-!
What stops an instruction and what changes the mode: the exceptions of the table `Raises` are the ones `exec` takes, and
of the shapes of an answer only a trap and a trap return leave another mode.
-/
namespace Sys2Proof.Machine

/-! ### The table of exceptions -/

/-- An instruction that the table `Raises` lets raise an exception takes it. -/
theorem exec_of_raises {i : Instr} {s s1 : State} {e : Exc} {tval : Word} (h : Raises i s e tval s1) :
    exec i s = takeException e tval s1 := by
  cases h with
  | ecall hgate hmode =>
    have he : ecallExc s.priv = e := by cases hp : s.priv <;> simp_all [ecallExc]
    rw [← he]
    exact if_neg hgate
  | ebreak => rfl
  | mret hcheck hmode => exact if_pos ⟨hcheck, hmode⟩
  | sret hcheck hmode => exact if_pos ⟨hcheck, hmode⟩
  | @csrWrite _ _ rd field csr hi hden =>
    have hdenied := (csrAllowed_false_iff (CsrKind.writes_write field) csr s).2 hden
    simp only [List.mem_cons, List.not_mem_nil, or_false] at hi
    obtain rfl | rfl := hi
    all_goals exact csrOp_denied hdenied
  | csrModify hi hden =>
    have hdenied (kind : CsrKind) (hk : kind ≠ .write) :=
      (csrAllowed_false_iff (CsrKind.writes_of_ne_write hk _) _ s).2 hden
    simp only [List.mem_cons, List.not_mem_nil, or_false] at hi
    obtain rfl | rfl | rfl | rfl := hi
    all_goals exact csrOp_denied (hdenied _ (by decide))
  | load hi ht =>
    obtain ⟨hnone, rfl⟩ := Prod.ext_iff.1 ht
    simp only [List.mem_cons, List.not_mem_nil, or_false] at hi
    obtain rfl | rfl | rfl | rfl | rfl := hi
    all_goals unfold exec; exact loadOp_fault hnone
  | store hi ht =>
    obtain ⟨hnone, rfl⟩ := Prod.ext_iff.1 ht
    simp only [List.mem_cons, List.not_mem_nil, or_false] at hi
    obtain rfl | rfl | rfl := hi
    all_goals unfold exec; exact storeOp_fault hnone
  | loadReserved ht => simp only [exec, execLrW, ht]
  | storeConditional hres ht => simp only [exec, execScW, hres, if_true, ht]
  | amo hi ht =>
    obtain ⟨hnone, rfl⟩ := Prod.ext_iff.1 ht
    simp only [List.mem_cons, List.not_mem_nil, or_false] at hi
    obtain rfl | rfl | rfl | rfl | rfl | rfl | rfl | rfl | rfl := hi
    all_goals unfold exec; exact amoOp_fault hnone

theorem takeException_not_fault (e : Exc) (tval : Word) (s : State) (f : Fault) : takeException e tval s ≠ .fault f := by
  obtain ⟨-, hx⟩ | ⟨p, -, -, hx⟩ := takeException_cases s e tval <;> simp [hx]

/-- The one two-bit code that is no mode (10_state.md R24). -/
theorem Priv.ofCode_none {c : BitVec 2} (h : Priv.ofCode c = none) : c = 2#2 := by
  revert c
  decide

/-- Settles O60: a case split on the shapes of an answer, where a refusal comes from MRET or from the exception raised. -/
theorem stopsOnlyByRule : Obligations.StopsOnlyByRule := by
  intro i s
  refine ⟨fun f hf => ?_, fun e tval s1 h => ⟨exec_of_raises h, h.state_eq⟩, fun r hr => ?_⟩
  · cases ExecResult.of_exec hf with
    | raises hraises hx => exact takeException_not_fault _ _ _ f hx
  · cases ExecResult.of_exec hr with
    | mretRefused hi hp hm => exact .inl ⟨rfl, hi, hp, Priv.ofCode_none hm⟩
    | raises hraises hx =>
      obtain ⟨rfl, hdel, hdem⟩ := takeException_refused hx
      exact .inr ⟨rfl, _, _, _, hraises, hdel, hdem⟩

/-! ### The mode -/

/-- Settles O59: of the shapes of an answer all but a trap and the two trap returns keep the mode. -/
theorem privilegeChangesOnlyByTraps : Obligations.PrivilegeChangesOnlyByTraps := by
  intro i s t he hmode
  cases ExecResult.of_exec he with
  | retires rd v next ha => exact absurd ha.frame.1 hmode
  | writesCsr rd v w csr hp hr => exact absurd (by simp) hmode
  | exits status => exact absurd rfl hmode
  | mretReturns prev hi hp ms pc => exact .inr (.inl hi)
  | sretReturns prev hi hp ms pc => exact .inr (.inr hi)
  | raises hraises hx => exact .inl (takeException_raised hx).1

/-! ### U-mode -/

/-- U may access only the addresses whose bits 9:8 are 0 (10_state.md R35). -/
theorem csrPrivOk_u {a : CsrAddr} (h : csrPrivOk a .u = true) : a.extractLsb' 8 2 = 0#2 := by
  simpa [csrPrivOk, Priv.level, Priv.code, ← BitVec.toNat_inj] using h

/-- A write to an address that U may access changes that entry at most, and leaves the MMU. -/
theorem csrWrite_user {a : CsrAddr} (ha : a.extractLsb' 8 2 = 0#2) (v : Word) {s : State}
    (hs : Sparse.wf 0#32 s.csrs = true) :
    (∀ b, b ≠ a → (csrWrite a v s).csr b = s.csr b) ∧ (csrWrite a v s).mmu = s.mmu := by
  have hne (b : CsrAddr) (hb : b.extractLsb' 8 2 ≠ 0#2) : a ≠ b := fun e => hb (e ▸ ha)
  have hsst := hne csrSstatus (by decide)
  have hsie := hne csrSie (by decide)
  have hsip := hne csrSip (by decide)
  have hmid := hne csrMideleg (by decide)
  have hsatp := hne csrSatp (by decide)
  constructor
  · intro b hb
    rw [csrWrite_csr hs, if_neg hsst, if_neg hsie, if_neg hsip, if_neg hmid, if_neg hb, ite_self]
  · unfold csrWrite
    rw [if_neg hsst, if_neg hsie, if_neg hsip, if_neg hmid, if_neg hsatp]
    split_ifs <;> rfl

/-- Settles O33: without a trap, and with trap returns checked, what is left is a register write after accesses, a CSR
write to an address that U may access, and the exit. -/
theorem userKeepsPrivilegedState : Obligations.UserKeepsPrivilegedState := by
  intro i s t he hinv hu hraised hcheck
  have hwf := hinv.csrFile
  cases ExecResult.of_exec he with
  | retires rd v next ha =>
    obtain ⟨hpriv, hmmu, -⟩ := ha.frame
    exact ⟨fun a _ hmip => ha.csr_eq hwf hmip, hmmu, hpriv.trans hu⟩
  | writesCsr rd v w csr hp hr =>
    have hopen := csrPrivOk_u (hu ▸ hp)
    obtain ⟨hcsr, hmmu⟩ := csrWrite_user hopen w (s := (csrRead csr s).2) (by simpa using hwf)
    refine ⟨fun a ha _ => ?_, by simpa using hmmu, by simpa using hu⟩
    simpa using hcsr a fun e => ha (e ▸ hopen)
  | exits status => exact ⟨fun _ _ _ => rfl, rfl, hu⟩
  | mretReturns prev hi hp ms pc => exact absurd ⟨hcheck, by simp [hu]⟩ hp
  | sretReturns prev hi hp ms pc => exact absurd ⟨hcheck, hu⟩ hp
  | raises hraises hx => rw [(takeException_raised hx).1] at hraised; cases hraised

/-! ### The general registers -/

/-- The reset registers, cell by cell (10_state.md R20, R51). -/
theorem resetRegs_get (n : Nat) (hn : n < 32) : State.resetRegs[n] = if n = 11 then 0x1020#32 else 0#32 := by
  unfold State.resetRegs
  rw [Vector.getElem_set]
  simp [eq_comm]

/-- Settles O7: the register laws, and the reset values cell by cell. -/
theorem registersHoldWrites : Obligations.RegistersHoldWrites := by
  refine ⟨State.reg_zero, State.reg_setReg, fun r => ?_⟩
  have h11 : r.toNat = 11 ↔ r = 11#5 := by rw [← BitVec.toNat_inj]; rfl
  show (if r = 0#5 then 0#32 else State.resetRegs[r.toNat]'r.isLt) = _
  rw [resetRegs_get]
  by_cases h0 : r = 0#5
  · subst h0; rfl
  · simp only [h0, if_false, h11]

end Sys2Proof.Machine

/-!
The CSR read and write functions address by address (10_state.md R37 to R50), and the six CSR instructions on top of them
(45_csr.md R320 to R327).
-/
namespace Sys2Proof.Machine

/-! ### The write function: where it goes -/

section

variable (v : Word) (s : State)

theorem csrWrite_sstatus : csrWrite csrSstatus v s = s.setCsr csrMstatus (viewWrite sstatusMask (s.csr csrMstatus) v) := rfl

theorem csrWrite_sie : csrWrite csrSie v s = s.setCsr csrMie (viewWrite sieMask (s.csr csrMie) v) := rfl

theorem csrWrite_sip : csrWrite csrSip v s = s.setCsr csrMip (viewWrite sieMask (s.csr csrMip) v) := rfl

theorem csrWrite_satp : csrWrite csrSatp v s = { s with mmu := Mmu.ofSatp v } := rfl

/-- Only a write of satp moves the MMU, and only one of 0x0C1 tells the host (10_state.md R45, R50). -/
theorem csrWrite_frame {a : CsrAddr} (hsatp : a ≠ csrSatp) (hsend : a ≠ csrNetTxSend) :
    csrWrite a v s = { s with csrs := (csrWrite a v s).csrs } := by
  unfold csrWrite
  rw [if_neg hsatp, if_neg hsend]
  split_ifs <;> rfl

end

/-! ### The CSR instructions -/

section

variable {kind : CsrKind} {field : BitVec 5} {csr : CsrAddr} {p : Priv}

/-- The access check in the words of 10_state.md R35. -/
theorem csrAllowed_iff : csrAllowed kind field csr p = true ↔
    (csr.extractLsb' 8 2).toNat ≤ p.code.toNat ∧ (kind.writes field = true → csr.extractLsb' 10 2 ≠ 3#2) := by
  rw [csrAllowed, csrPrivOk, csrReadOnly, Bool.and_eq_true, decide_eq_true_iff]
  refine and_congr_right fun _ => ?_
  cases kind.writes field <;> simp

variable {w : Word} {rd : Reg} {src : Word} {s : State}

/-- A CSR instruction that writes: the new value goes through the write function, rd gets the old one. -/
theorem csrOp_writes (hw : kind.writes field = true) (hp : (csr.extractLsb' 8 2).toNat ≤ s.priv.code.toNat)
    (hr : csr.extractLsb' 10 2 ≠ 3#2) :
    ∃ t, csrOp kind w rd field src csr s = .next t ∧
      RetiresTo (csrWrite csr (kind.combine (csrRead csr s).1 src) (csrRead csr s).2) t rd (csrRead csr s).1 (s.pc + 4#32) := by
  rw [csrOp_allowed (csrAllowed_iff.2 ⟨hp, fun _ => hr⟩), if_pos hw]
  simpa using retire_retiresTo rd (csrRead csr s).1 (csrWrite csr (kind.combine (csrRead csr s).1 src) (csrRead csr s).2)

/-- A CSR instruction that does not write reads only. -/
theorem csrOp_reads (hw : kind.writes field = false) (hp : (csr.extractLsb' 8 2).toNat ≤ s.priv.code.toNat) :
    ∃ t, csrOp kind w rd field src csr s = .next t ∧
      RetiresTo (csrRead csr s).2 t rd (csrRead csr s).1 (s.pc + 4#32) := by
  rw [csrOp_allowed (csrAllowed_iff.2 ⟨hp, fun h => absurd h (by simp [hw])⟩), if_neg (by simp [hw])]
  simpa using retire_retiresTo rd (csrRead csr s).1 (csrRead csr s).2

theorem csrOp_denied_of (h : ¬ ((csr.extractLsb' 8 2).toNat ≤ s.priv.code.toNat ∧
    (kind.writes field = true → csr.extractLsb' 10 2 ≠ 3#2))) :
    csrOp kind w rd field src csr s = takeException .illegalInstruction w s :=
  csrOp_denied (Bool.eq_false_iff.2 fun ha => h (csrAllowed_iff.1 ha))

end

/-- Settles O29: the three ways a CSR instruction goes, `csrOp_writes`, `csrOp_reads` and `csrOp_denied_of`, for each of the
six. -/
theorem csrInstructionsCompleteOrTrap : Obligations.CsrInstructionsCompleteOrTrap := by
  intro rd rs1 u csr s mayRead mayWrite r old x done denied
  have writes {kind : CsrKind} {f : BitVec 5} (hf : f ≠ 0#5) : kind.writes f = true := by simp [CsrKind.writes, hf]
  have always (f : BitVec 5) : CsrKind.writes .write f = true := rfl
  have deny {kind : CsrKind} {w : Word} {f : BitVec 5} {src : Word} (hw : kind.writes f = true) (h : ¬ mayWrite) :
      csrOp kind w rd f src csr s = takeException .illegalInstruction w s :=
    csrOp_denied_of fun ⟨hp, hr⟩ => h ⟨hp, hr hw⟩
  have unreadable {kind : CsrKind} {w : Word} {src : Word} (h : ¬ mayRead) :
      csrOp kind w rd 0#5 src csr s = takeException .illegalInstruction w s :=
    csrOp_denied_of fun hp => h hp.1
  exact ⟨fun ⟨hp, hr⟩ => ⟨csrOp_writes (always rs1) hp hr, csrOp_writes (always u) hp hr⟩,
    fun ⟨hp, hr⟩ hf => ⟨csrOp_writes (writes hf) hp hr, csrOp_writes (writes hf) hp hr⟩,
    fun ⟨hp, hr⟩ hf => ⟨csrOp_writes (writes hf) hp hr, csrOp_writes (writes hf) hp hr⟩,
    fun hp => ⟨csrOp_reads rfl hp, csrOp_reads rfl hp, csrOp_reads rfl hp, csrOp_reads rfl hp⟩,
    fun h => ⟨deny (always rs1) h, deny (always u) h, fun hf => ⟨deny (writes hf) h, deny (writes hf) h⟩,
      fun hf => ⟨deny (writes hf) h, deny (writes hf) h⟩⟩,
    fun h => ⟨unreadable h, unreadable h, unreadable h, unreadable h⟩⟩

/-- Settles O30: a read is the matching line of `CsrRead`, a write's effect on an entry is `csrWrite_csr`. -/
theorem csrFileReadsAndWrites : Obligations.CsrFileReadsAndWrites := by
  intro s v hwf special after
  refine ⟨⟨rfl, rfl, rfl, ?_, rfl, rfl, ?_, rfl, rfl, rfl⟩, fun a ha => ?_, rfl, fun a ha => ?_, fun b => ?_, fun b => ?_,
    fun b => ?_, fun b => ?_, ?_, fun a ha => ?_, fun a ha b => ?_, fun a hsatp hsend => csrWrite_frame v s hsatp hsend, rfl⟩
  · show s.mmu.satp = _
    cases hm : s.mmu.mode <;> simp [Mmu.satp, boolWord, hm]
  · exact BitVec.setWidth_eq_extractLsb' (show 32 ≤ 64 by omega)
  · rw [csrRead_snd, if_neg ha]
  · simp only [special, List.mem_cons, List.not_mem_nil, or_false, not_or] at ha
    rw [csrRead_plain s (by tauto)]
  · exact State.csr_setCsr s hwf _ _ b
  · exact State.csr_setCsr s hwf _ _ b
  · exact State.csr_setCsr s hwf _ _ b
  · exact State.csr_setCsr s hwf _ _ b
  · rw [csrWrite_satp, Mmu.ofSatp, BitVec.setWidth_eq_extractLsb' (show 22 ≤ 32 by omega)]
  · simp only [List.mem_cons, List.not_mem_nil, or_false] at ha
    obtain rfl | rfl | rfl := ha <;> rfl
  · simp only [List.mem_cons, List.not_mem_nil, or_false, not_or] at ha
    show (csrWrite a v s).csr b = _
    rw [csrWrite_csr hwf]
    simp [ha]

/-! ### The views -/

/-- A CSRRW through the view `a` of `b` with the mask `k`: rd gets the masked bits, `b` gets the masked bits of rs1. -/
theorem csrrw_view {a b : CsrAddr} {k : Word} {rd rs1 : Reg} {s : State} (hwf : Sparse.wf 0#32 s.csrs = true)
    (hread : csrRead a s = (s.csr b &&& k, s)) (hwrite : ∀ v, csrWrite a v s = s.setCsr b (viewWrite k (s.csr b) v))
    (hp : (a.extractLsb' 8 2).toNat ≤ s.priv.code.toNat) (hr : a.extractLsb' 10 2 ≠ 3#2) :
    ∃ t, exec (.csrrw rd rs1 a) s = .next t ∧
      (∀ r, t.reg r = if r = rd ∧ rd ≠ 0#5 then s.csr b &&& k else s.reg r) ∧
      t.csr b = (s.csr b &&& ~~~k) ||| (s.reg rs1 &&& k) ∧ (∀ c, c ≠ b → t.csr c = s.csr c) ∧
      t = { s with regs := t.regs, pc := s.pc + 4#32, csrs := t.csrs } := by
  obtain ⟨t, he, hframe, hregs, -⟩ := csrOp_writes (kind := .write) (w := encode (.csrrw rd rs1 a)) (rd := rd)
    (src := s.reg rs1) (field := rs1) rfl hp hr
  rw [hread, CsrKind.combine, hwrite] at hframe hregs
  have hcsr (c : CsrAddr) : t.csr c = if c = b then viewWrite k (s.csr b) (s.reg rs1) else s.csr c := by
    rw [← State.csr_setCsr s hwf]
    exact State.csr_congr (by rw [hframe]) c
  refine ⟨t, he, hregs, ?_, fun c hc => ?_, ?_⟩
  · rw [hcsr, if_pos rfl, viewWrite]
  · rw [hcsr, if_neg hc]
  · rw [hframe]; rfl

/-- S and M may access the addresses whose bits 9:8 are 1 (10_state.md R35). -/
theorem Priv.one_le_code {p : Priv} (h : p ≠ .u) : 1 ≤ p.code.toNat := by
  cases p with
  | u => exact absurd rfl h
  | s | m => decide

/-- Settles O31: `csrrw_view` for each of the three views, which S and M may access. -/
theorem viewsShowMaskedBits : Obligations.ViewsShowMaskedBits := by
  intro rd rs1 s hwf hu e he
  have hp := Priv.one_le_code hu
  simp only [List.mem_cons, List.not_mem_nil, or_false] at he
  obtain rfl | rfl | rfl := he
  · exact csrrw_view hwf rfl (fun v => csrWrite_sstatus v s) hp (by decide)
  · exact csrrw_view hwf rfl (fun v => csrWrite_sie v s) hp (by decide)
  · exact csrrw_view hwf rfl (fun v => csrWrite_sip v s) hp (by decide)

/-! ### satp and the counters -/

theorem ofSatp_mode (v : Word) : (Mmu.ofSatp v).mode = .sv32 ↔ v.getLsbD 31 = true := by
  unfold Mmu.ofSatp
  cases v.getLsbD 31 <;> simp

/-- satp reads back what was written, without bits 30 to 22 (10_state.md R45). -/
theorem satp_ofSatp (v : Word) : (Mmu.ofSatp v).satp = v &&& 0x803FFFFF#32 := by
  apply BitVec.eq_of_getLsbD_eq
  intro i hi
  rw [Mmu.satp, BitVec.getLsbD_or, BitVec.getLsbD_shiftLeft, BitVec.getLsbD_setWidth, BitVec.getLsbD_and]
  have hppn : (Mmu.ofSatp v).ppn.getLsbD i = (decide (i < 22) && v.getLsbD i) := BitVec.getLsbD_setWidth _ _ _
  have hmode : decide ((Mmu.ofSatp v).mode = .sv32) = v.getLsbD 31 := by
    rw [Bool.eq_iff_iff, decide_eq_true_iff, ofSatp_mode]
  rw [hppn, hmode, boolWord]
  by_cases h31 : i = 31
  · subst h31
    cases v.getLsbD 31 <;> rfl
  · have hlow : i < 31 := by omega
    interval_cases i <;> simp

/-- A CSRRS with rs1 = x0 of an address whose read changes nothing writes the value read to rd. -/
theorem csrrs_zero_writes {a : CsrAddr} {s : State} (v : Word) (rd : Reg) (hread : csrRead a s = (v, s))
    (hp : (a.extractLsb' 8 2).toNat ≤ s.priv.code.toNat) : Writes (.csrrs rd 0#5 a) s rd v := by
  have h := csrOp_reads (kind := .set) (w := encode (.csrrs rd 0#5 a)) (rd := rd) (src := s.reg 0#5) (field := 0#5) rfl hp
  rwa [hread] at h

/-- Settles O32: the reads and writes of satp, cycle, mcycle and time, each by the lemma of its CSR. -/
theorem satpAndCountersRead : Obligations.SatpAndCountersRead := by
  intro rd rs1 s
  have denied (a : CsrAddr) (ha : a.extractLsb' 10 2 = 3#2) :
      exec (.csrrw rd rs1 a) s = takeException .illegalInstruction (encode (.csrrw rd rs1 a)) s :=
    csrOp_denied_of fun h => h.2 rfl ha
  refine ⟨fun hu hrd => ?_, csrrs_zero_writes _ rd rfl (Nat.zero_le _), ?_, fun hm => ⟨?_, ?_⟩, denied 0xC00#12 (by decide),
    denied 0xC01#12 (by decide)⟩
  · have hp := Priv.one_le_code hu
    obtain ⟨t, ht, htframe, -⟩ := csrOp_writes (kind := .write) (w := encode (.csrrw rd rs1 csrSatp)) (rd := rd)
      (src := s.reg rs1) (field := rs1) (csr := csrSatp) rfl hp (by decide)
    have hmmu : t.mmu = Mmu.ofSatp (s.reg rs1) := by rw [htframe]; rfl
    have hpt : 1 ≤ t.priv.code.toNat := by rw [htframe]; exact hp
    obtain ⟨u, hu, -, huregs, -⟩ := csrrs_zero_writes (a := csrSatp) (s := t) t.mmu.satp rd rfl hpt
    refine ⟨t, u, ht, hu, ?_, ?_, ?_⟩
    · rw [huregs, if_pos ⟨rfl, hrd⟩, hmmu, satp_ofSatp]
    · rw [hmmu, ofSatp_mode]
    · rw [hmmu]; exact BitVec.setWidth_eq_extractLsb' (show 22 ≤ 32 by omega)
  · rw [← BitVec.setWidth_eq_extractLsb' (show 32 ≤ 64 by omega)]
    exact csrrs_zero_writes _ rd rfl (Nat.zero_le _)
  · exact csrrs_zero_writes _ rd rfl (by rw [hm]; decide)
  · exact csrOp_writes (kind := .write) (src := s.reg rs1) (field := rs1) (csr := csrMcycle) rfl (by rw [hm]; decide)
      (by decide)

end Sys2Proof.Machine

/-!
The windows of the address map (20_memory.md R80): which addresses lie in which, what plain storage shows, and the bits
of mip that device registers drive.
-/
namespace Sys2Proof.Machine

/-! ### Addresses at an offset -/

theorem toNat_add_ofNat {base : Word} {o : Nat} (h : base.toNat + o < 4294967296) :
    (base + BitVec.ofNat 32 o).toNat = base.toNat + o := by
  rw [BitVec.toNat_add, BitVec.toNat_ofNat]
  omega

theorem offset_add_ofNat (base : Word) {o : Nat} (h : o < 4294967296) : offset base (base + BitVec.ofNat 32 o) = o := by
  rw [offset, BitVec.add_comm, BitVec.add_sub_cancel, BitVec.toNat_ofNat, Nat.mod_eq_of_lt h]

theorem add_ofNat_add (base : Word) (m n : Nat) :
    base + BitVec.ofNat 32 (m + n) = base + BitVec.ofNat 32 m + BitVec.ofNat 32 n := by
  rw [BitVec.ofNat_add, BitVec.add_assoc]

/-! ### The windows -/

/-- A branch that gives another window is not the one taken. -/
theorem Window.ite_eq_iff_of_ne {p : Prop} [Decidable p] {x y w : Window} (h : x ≠ w) :
    (if p then x else y) = w ↔ ¬ p ∧ y = w := by
  split <;> simp [*]

section

variable {c : Launch} {a : Nat}

theorem window_ram (h : 0x80000000 ≤ a) (h' : a < 0x80000000 + c.memSize) : window c a = .ram := if_pos ⟨h, h'⟩

theorem window_dtb (h : 0x00001020 ≤ a) (h' : a ≤ 0x00001FFF) : window c a = .dtb := by
  unfold window
  rw [if_neg (by omega), if_pos ⟨h, h'⟩]

theorem window_rtc (h : 0x03000000 ≤ a) (h' : a ≤ 0x030007FF) : window c a = .rtc := by
  unfold window
  repeat rw [if_neg (by omega)]
  rw [if_pos ⟨h, h'⟩]

theorem window_uart_iff : window c a = .uart ↔ 0x10000000 ≤ a ∧ a ≤ 0x10000007 := by
  constructor
  · intro h
    unfold window at h
    by_contra hout
    rw [if_neg hout] at h
    simp (disch := decide) only [Window.ite_eq_iff_of_ne, reduceCtorEq, and_false] at h
  · intro h
    unfold window
    repeat rw [if_neg (by omega)]
    rw [if_pos h]

theorem window_netTx (h : 0x11000000 ≤ a) (h' : a ≤ 0x11000FFF) : window c a = .netTx := by
  unfold window
  repeat rw [if_neg (by omega)]
  rw [if_pos ⟨h, h'⟩]

theorem window_netRx (h : 0x11001000 ≤ a) (h' : a ≤ 0x11001FFF) : window c a = .netRx := by
  unfold window
  repeat rw [if_neg (by omega)]
  rw [if_pos ⟨h, h'⟩]

theorem window_mtd (h : 0x40000000 ≤ a) (h' : a < 0x40000000 + c.mtdSize) (hram : a < 0x80000000) :
    window c a = .mtd := by
  unfold window
  repeat rw [if_neg (by omega)]
  rw [if_pos ⟨h, h'⟩]

/-- An address is unmapped exactly when it lies outside the ten ranges (decision D36). -/
theorem window_unmapped_iff : window c a = .unmapped ↔
    ¬ (0x00001020 ≤ a ∧ a ≤ 0x00001FFF) ∧ ¬ (0x02000000 ≤ a ∧ a ≤ 0x02000003) ∧ ¬ (0x02004000 ≤ a ∧ a ≤ 0x02004007) ∧
    ¬ (0x0200BFF8 ≤ a ∧ a ≤ 0x0200BFFF) ∧ ¬ (0x03000000 ≤ a ∧ a ≤ 0x030007FF) ∧ ¬ (0x10000000 ≤ a ∧ a ≤ 0x10000007) ∧
    ¬ (0x11000000 ≤ a ∧ a ≤ 0x11000FFF) ∧ ¬ (0x11001000 ≤ a ∧ a ≤ 0x11001FFF) ∧
    ¬ (0x40000000 ≤ a ∧ a < 0x40000000 + c.mtdSize) ∧ ¬ (0x80000000 ≤ a ∧ a < 0x80000000 + c.memSize) := by
  unfold window
  simp (disch := decide) only [Window.ite_eq_iff_of_ne, and_true]
  rw [and_comm]
  simp only [and_assoc]

end

/-! ### Plain storage -/

section

variable {s : State} {pa : Word}

/-- The four windows of plain storage (10_state.md R32, R33). -/
theorem storageAt_iff {c : Launch} {a : Nat} : storageAt c a = true ↔
    window c a = .ram ∨ window c a = .netTx ∨ window c a = .netRx ∨ window c a = .mtd := by
  unfold storageAt
  cases window c a <;> decide

theorem busPeek_storage (h : storageAt s.cfg pa.toNat = true) : busPeek pa s = s.mem.read pa.toNat := by
  obtain hw | hw | hw | hw := storageAt_iff.1 h
  all_goals simp only [busPeek, hw]

/-- Storage shows the byte written to it; the rest of the address space shows what it did. -/
theorem busPeek_withMemWrite (hwf : s.mem.wf = true) (h : storageAt s.cfg pa.toNat = true) (b : Byte) (x : Word) :
    busPeek x { s with mem := s.mem.write pa.toNat b } = if x = pa then b else busPeek x s := by
  split
  · next e =>
    subst e
    rw [busPeek_storage (by exact h), Memory.read_write hwf, if_pos rfl]
  · next hne =>
    have hn : ¬ x.toNat = pa.toNat := fun e => hne (BitVec.eq_of_toNat_eq e)
    simp only [busPeek, Memory.read_write hwf, hn, if_false]

end

/-! ### The bits of mip -/

/-- The bits of mip after one of them is set or cleared. -/
theorem getLsbD_mip_setMip {s : State} (h : Sparse.wf 0#32 s.csrs = true) {p : Nat} (hp : p < 32) (b : Bool) (i : Nat) :
    ((s.setMip p b).csr csrMip).getLsbD i = if i = p then b else (s.csr csrMip).getLsbD i := by
  rw [State.csr_setMip s h, if_pos rfl, getLsbD_putBit _ _ _ _ hp]

theorem csr_setMip_of_ne {s : State} (h : Sparse.wf 0#32 s.csrs = true) (p : Nat) (b : Bool) {a : CsrAddr} (ha : a ≠ csrMip) :
    (s.setMip p b).csr a = s.csr a := by
  rw [State.csr_setMip s h, if_neg ha]

end Sys2Proof.Machine

/-!
The windows without registers on the bus: storage keeps bytes, the DTB and unmapped addresses drop them (20_memory.md R80
to R85, R100, R101).
-/
namespace Sys2Proof.Machine

section

variable {s : State} {pa : Word}

/-- Storage takes a write, the MTD window only if it is writable (20_memory.md R83). -/
theorem busWriteByte_storage (h : storageAt s.cfg pa.toNat = true)
    (hmtd : window s.cfg pa.toNat = .mtd → s.cfg.mtdWritable = true) (b : Byte) :
    busWriteByte pa b s = { s with mem := s.mem.write pa.toNat b } := by
  obtain hw | hw | hw | hw := storageAt_iff.1 h
  case inr.inr.inr => simp only [busWriteByte, hw, hmtd hw, if_true]
  all_goals simp only [busWriteByte, hw]

theorem busWriteByte_mtd_readonly (h : window s.cfg pa.toNat = .mtd) (hro : s.cfg.mtdWritable = false) (b : Byte) :
    busWriteByte pa b s = s := by
  simp [busWriteByte, h, hro]

theorem busPeek_dtb (h : window s.cfg pa.toNat = .dtb) :
    busPeek pa s = s.cfg.dtbImage.getD (offset 0x00001020#32 pa) 0#8 := by
  simp only [busPeek, h]

theorem busWriteByte_dtb (h : window s.cfg pa.toNat = .dtb) (b : Byte) : busWriteByte pa b s = s := by
  simp only [busWriteByte, h]

theorem busPeek_unmapped (h : window s.cfg pa.toNat = .unmapped) : busPeek pa s = 0#8 := by simp only [busPeek, h]

theorem busWriteByte_unmapped (h : window s.cfg pa.toNat = .unmapped) (b : Byte) : busWriteByte pa b s = s := by
  simp only [busWriteByte, h]

end

/-- Settles O48: each address's window by its range, and the bus on that window. -/
theorem windowsHoldOrDropBytes : Obligations.WindowsHoldOrDropBytes := by
  intro s a b hwf n stored outside readsStorage
  have keeps (h : storageAt s.cfg n = true) (hmtd : window s.cfg n = .mtd → s.cfg.mtdWritable = true) : stored := by
    have hw := busWriteByte_storage (pa := a) h hmtd b
    exact ⟨by rw [hw], fun x => hw ▸ busPeek_withMemWrite hwf h b x⟩
  have holds (h : storageAt s.cfg n = true) (hmtd : window s.cfg n ≠ .mtd) : readsStorage ∧ stored :=
    ⟨busPeek_storage h, keeps h fun e => absurd e hmtd⟩
  refine ⟨fun h => busReadEffect_id (mt window_uart_iff.1 h), fun h h' => ?_, fun h h' => ?_, fun h h' hram => ?_,
    fun o ho => ?_, window_unmapped_iff.symm, fun h => ?_, fun _ _ h => ?_, fun h => ?_⟩
  · have hw := window_ram h h'
    exact holds (storageAt_iff.2 (.inl hw)) (by rw [hw]; decide)
  · by_cases htx : n ≤ 0x11000FFF
    · have hw := window_netTx (c := s.cfg) h htx
      exact holds (storageAt_iff.2 (.inr (.inl hw))) (by rw [hw]; decide)
    · have hw := window_netRx (c := s.cfg) (by omega) h'
      exact holds (storageAt_iff.2 (.inr (.inr (.inl hw)))) (by rw [hw]; decide)
  · have hw := window_mtd h h' hram
    have hst := storageAt_iff.2 (.inr (.inr (.inr hw)))
    exact ⟨busPeek_storage hst, fun hwr => keeps hst fun _ => hwr, fun hro => busWriteByte_mtd_readonly hw hro b⟩
  · have hn : (0x00001020#32 + BitVec.ofNat 32 o).toNat = 0x00001020 + o := toNat_add_ofNat (by simp; omega)
    have hw : window s.cfg (0x00001020#32 + BitVec.ofNat 32 o).toNat = .dtb := window_dtb (by omega) (by omega)
    refine ⟨?_, busWriteByte_dtb hw b⟩
    rw [busPeek_dtb hw, offset_add_ofNat _ (by omega)]
  · have hw := window_unmapped_iff.2 h
    exact ⟨busPeek_unmapped hw, busWriteByte_unmapped hw b⟩
  · exact window_unmapped_iff.2 (by omega)
  · exact window_unmapped_iff.2 (by omega)

end Sys2Proof.Machine

/-!
Multi-byte accesses as byte accesses (20_memory.md R71, R72), and the loads whose bytes lie outside the UART's window.
-/
namespace Sys2Proof.Machine

/-! ### Bytes put together and taken apart -/

/-- A byte below a value that fits above it. -/
theorem setWidth_or_shift_byte {m : Nat} (v : BitVec m) (b : Byte) :
    b.setWidth 32 ||| (v.setWidth 32 <<< 8) = (v ++ b).setWidth 32 := by
  apply BitVec.eq_of_getLsbD_eq
  intro i hi
  simp only [BitVec.getLsbD_or, BitVec.getLsbD_setWidth, BitVec.getLsbD_shiftLeft, BitVec.getLsbD_append, hi, decide_true,
    Bool.true_and]
  by_cases h : i < 8
  · simp [h]
  · simp [h, BitVec.getLsbD_of_ge b i (by omega), show i - 8 < 32 by omega]

theorem setWidth_shiftRight_eq_extractLsb' (v : Word) (k : Nat) : (v >>> k).setWidth 8 = v.extractLsb' k 8 := by
  apply BitVec.eq_of_getLsbD_eq
  intro i hi
  simp [hi]

/-! ### Accesses of one, two and four bytes -/

section

variable (pa : Word) (s : State)

theorem busRead_succ (n : Nat) : busRead (n + 1) pa s =
    ((busPeek pa s).setWidth 32 ||| ((busRead n (pa + 1#32) (busReadEffect pa s)).1 <<< 8),
      (busRead n (pa + 1#32) (busReadEffect pa s)).2) := rfl

theorem busRead_one : busRead 1 pa s = ((busPeek pa s).setWidth 32, busReadEffect pa s) := by
  rw [busRead_succ, busRead, BitVec.zero_shiftLeft, BitVec.or_zero]

theorem busRead_two : busRead 2 pa s =
    ((busPeek (pa + 1#32) (busReadEffect pa s) ++ busPeek pa s).setWidth 32,
      busReadEffect (pa + 1#32) (busReadEffect pa s)) := by
  rw [busRead_succ, busRead_one, setWidth_or_shift_byte]

end

/-- Settles O16: one byte is peeled off at a time. -/
theorem busIsByteOrdered : Obligations.BusIsByteOrdered := by
  intro pa v s
  have h2 : pa + 1#32 + 1#32 = pa + 2#32 := (add_ofNat_add pa 1 1).symm
  have h3 : pa + 2#32 + 1#32 = pa + 3#32 := (add_ofNat_add pa 2 1).symm
  have h0 : v.setWidth 8 = v.extractLsb' 0 8 := BitVec.setWidth_eq_extractLsb' (by omega)
  refine ⟨⟨?_, busRead_two pa s, busRead_one pa s⟩, ?_, ?_, ?_⟩
  · rw [busRead_succ, busRead_succ, busRead_two, h2, h3, setWidth_or_shift_byte, setWidth_or_shift_byte, BitVec.setWidth_eq]
  · simp only [busWrite, ← BitVec.shiftRight_add, setWidth_shiftRight_eq_extractLsb', h0, h2, h3]
  · simp only [busWrite, setWidth_shiftRight_eq_extractLsb', h0]
  · simp only [busWrite, h0]

/-! ### Loads with translation off -/

section

variable (rd rs1 : Reg) (imm : Word) (s : State)

theorem exec_lb : exec (.lb rd rs1 imm) s = loadOp 1 (fun v => (v.setWidth 8).signExtend 32) rd (s.reg rs1 + imm) s := rfl

theorem exec_lh : exec (.lh rd rs1 imm) s = loadOp 2 (fun v => (v.setWidth 16).signExtend 32) rd (s.reg rs1 + imm) s := rfl

theorem exec_lw : exec (.lw rd rs1 imm) s = loadOp 4 (fun v => v) rd (s.reg rs1 + imm) s := rfl

theorem exec_lbu : exec (.lbu rd rs1 imm) s = loadOp 1 (fun v => (v.setWidth 8).setWidth 32) rd (s.reg rs1 + imm) s := rfl

theorem exec_lhu : exec (.lhu rd rs1 imm) s = loadOp 2 (fun v => (v.setWidth 16).setWidth 32) rd (s.reg rs1 + imm) s := rfl

end

/-- With translation off an instruction that loads bytes which are not the UART's writes them to rd (42_loadstore.md
R260). -/
theorem writes_of_loadOp {i : Instr} {n : Nat} {ext : Word → Word} {rd : Reg} {addr : Word} {s : State}
    (hi : exec i s = loadOp n ext rd addr s) (hoff : s.mmu.mode = .off)
    (hpure : ∀ k, k < n → window s.cfg (addr + BitVec.ofNat 32 k).toNat ≠ .uart) :
    Writes i s rd (ext (busRead n addr s).1) := by
  have hpa : (translate addr .read s).1 = some addr := by rw [translate_off hoff]
  rw [Writes, hi, loadOp_hit hpa, translate_off hoff, busRead_state_of_pure n addr s hpure]
  exact retire_retiresTo rd _ s

/-- Settles O18: each load is `writes_of_loadOp` with its width and extension. -/
theorem plainLoadsGiveBytes : Obligations.PlainLoadsGiveBytes := by
  intro rd rs1 imm s hoff hpure a
  have h0 : window s.cfg a.toNat ≠ .uart := by simpa only [BitVec.add_zero] using hpure 0 (by omega)
  have hbyte : (busRead 1 a s).1.setWidth 8 = busPeek a s := by
    rw [busRead_one]; exact BitVec.setWidth_setWidth_of_le _ (by omega)
  have hhalf : (busRead 2 a s).1.setWidth 16 = busPeek (a + 1#32) s ++ busPeek a s := by
    rw [busRead_two, busReadEffect_id h0]; exact BitVec.setWidth_setWidth_of_le _ (by omega)
  have pure {n : Nat} (hn : n ≤ 4) (k : Nat) (hk : k < n) := hpure k (by omega)
  refine ⟨⟨_, writes_of_loadOp (exec_lb rd rs1 imm s) hoff (pure (by omega)), ?_⟩,
    ⟨_, writes_of_loadOp (exec_lbu rd rs1 imm s) hoff (pure (by omega)), ?_⟩,
    ⟨_, writes_of_loadOp (exec_lh rd rs1 imm s) hoff (pure (by omega)), ?_⟩,
    ⟨_, writes_of_loadOp (exec_lhu rd rs1 imm s) hoff (pure (by omega)), ?_⟩, ?_⟩
  · rw [BitVec.toInt_signExtend_of_le (by omega), hbyte]
  · rw [BitVec.toNat_setWidth_of_le (by omega), hbyte]
  · rw [BitVec.toInt_signExtend_of_le (by omega), hhalf]
  · rw [BitVec.toNat_setWidth_of_le (by omega), hhalf]
  · have hword := writes_of_loadOp (exec_lw rd rs1 imm s) hoff hpure
    rwa [busRead_four_of_pure _ s hpure] at hword

end Sys2Proof.Machine

/-!
The UART: its registers on the bus (20_memory.md R88 to R91) and its part of a tick (R93 to R95).
-/
namespace Sys2Proof.Machine

/-! ### Registers on the bus -/

section

variable {o : Nat} (s : State) (ho : o < 8)
include ho

theorem window_uart_offset (c : Launch) : window c (0x10000000#32 + BitVec.ofNat 32 o).toNat = .uart := by
  have hn : (0x10000000#32 + BitVec.ofNat 32 o).toNat = 0x10000000 + o := toNat_add_ofNat (by simp; omega)
  exact window_uart_iff.2 (by omega)

theorem busPeek_uart : busPeek (0x10000000#32 + BitVec.ofNat 32 o) s = uartReadValue o s.uart := by
  simp only [busPeek, window_uart_offset ho s.cfg, offset_add_ofNat _ (show o < 4294967296 by omega)]

theorem busReadEffect_uart :
    busReadEffect (0x10000000#32 + BitVec.ofNat 32 o) s = { s with uart := uartReadEffect o s.uart } := by
  simp only [busReadEffect, window_uart_offset ho s.cfg, offset_add_ofNat _ (show o < 4294967296 by omega)]

theorem busWriteByte_uart (b : Byte) :
    busWriteByte (0x10000000#32 + BitVec.ofNat 32 o) b s = { s with uart := uartWrite o b s.uart } := by
  simp only [busWriteByte, window_uart_offset ho s.cfg, offset_add_ofNat _ (show o < 4294967296 by omega)]

end

/-- IIR reports THR_EMPTY when no received byte is reported before it (20_memory.md R91). -/
theorem iir_eq_thrEmpty_iff (u : Uart) : u.iir = 2#8 ↔ u.rxIp = false ∧ u.threIp = true := by
  unfold Uart.iir
  cases u.rxIp <;> cases u.threIp <;> simp

/-- Settles O44: the bus passes each offset on to the UART's own functions, which say the rest. -/
theorem uartBytesOnBus : Obligations.UartBytesOnBus := by
  intro s b at_ u put
  have hpeek (o : Nat) (ho : o < 8) : busPeek (at_ o) s = uartReadValue o u := busPeek_uart s ho
  have heff (o : Nat) (ho : o < 8) : (busReadEffect (at_ o) s).uart = uartReadEffect o u :=
    congrArg State.uart (busReadEffect_uart s ho)
  have hwrite (o : Nat) (ho : o < 8) : busWriteByte (at_ o) b s = { s with uart := uartWrite o b u } :=
    busWriteByte_uart s ho b
  have hput (o : Nat) (ho : o < 8) : put o = uartWrite o b u := congrArg State.uart (hwrite o ho)
  refine ⟨fun o ho => ⟨busReadEffect_eq _ s, ?_⟩, fun hdlab => ?_, fun hdlab => ?_, hpeek 2 (by omega), ?_,
    hpeek 3 (by omega), hpeek 4 (by omega), hpeek 5 (by omega), hpeek 6 (by omega), hpeek 7 (by omega), fun o ho => ?_,
    hput 3 (by omega), hput 4 (by omega), hput 7 (by omega), fun o ho => ?_⟩
  · rw [hput o ho, hwrite o ho]
  · have hd : ¬ u.dlab = true := by rw [Uart.dlab, hdlab]; decide
    exact ⟨(hpeek 0 (by omega)).trans (if_neg hd), (hpeek 1 (by omega)).trans (if_neg hd),
      (heff 0 (by omega)).trans (if_neg hd), (hput 0 (by omega)).trans (if_neg hd), (hput 1 (by omega)).trans (if_neg hd)⟩
  · have hd : u.dlab = true := hdlab
    exact ⟨(hpeek 0 (by omega)).trans (if_pos hd), (hpeek 1 (by omega)).trans (if_pos hd),
      (heff 0 (by omega)).trans (if_pos hd), (hput 0 (by omega)).trans (if_pos hd), (hput 1 (by omega)).trans (if_pos hd)⟩
  · rw [heff 2 (by omega), uartReadEffect]
    simp only [iir_eq_thrEmpty_iff]
  · simp only [List.mem_cons, List.not_mem_nil, or_false] at ho
    rw [heff o (by omega)]
    obtain rfl | rfl | rfl | rfl | rfl | rfl := ho <;> rfl
  · simp only [List.mem_cons, List.not_mem_nil, or_false] at ho
    rw [hput o (by omega)]
    obtain rfl | rfl | rfl := ho <;> rfl

/-! ### The UART in a tick -/

/-- The transmitter's clock test looks at the bits 1, 2 and 4 (decision D24). -/
theorem transmitTest_iff (c : Word) :
    c &&& 0x16#32 = 0#32 ↔ c.getLsbD 1 = false ∧ c.getLsbD 2 = false ∧ c.getLsbD 4 = false := by
  constructor
  · intro h
    have bit (i : Nat) := congrArg (fun w : Word => w.getLsbD i) h
    exact ⟨by simpa using bit 1, by simpa using bit 2, by simpa using bit 4⟩
  · rintro ⟨h1, h2, h4⟩
    apply BitVec.eq_of_getLsbD_eq
    intro i hi
    rw [BitVec.getLsbD_and]
    interval_cases i <;> simp [h1, h2, h4, -BitVec.getLsbD_eq_getElem]

/-- Settles O45: transmit and receive by their own tests, and what the host answers. -/
theorem uartTickTransfers : Obligations.UartTickTransfers := by
  intro s
  refine ⟨fun h1 h2 h4 hthr => ?_, fun h => ?_, fun hclock hrbr => ?_, fun h => ?_⟩
  · rw [uartTransmit, if_pos ⟨(transmitTest_iff _).2 ⟨h1, h2, h4⟩, hthr⟩]; rfl
  · refine if_neg fun ⟨hclock, hthr⟩ => ?_
    obtain ⟨h1, h2, h4⟩ := (transmitTest_iff _).1 hclock
    simp only [h1, h2, h4, hthr, Bool.false_eq_true, or_self] at h
  · unfold uartReceive
    rw [if_pos ⟨hclock, hrbr⟩]
    cases Config.uartIn s.host.draws with
    | none => exact ⟨rfl, nofun, fun _ => rfl, rfl⟩
    | some d => exact ⟨rfl, fun b hb => by cases hb; rfl, nofun, rfl⟩
  · exact if_neg fun ⟨hclock, hrbr⟩ => h.elim (· hclock) (· hrbr)

/-! ### The interrupt line -/

/-- Delivery of a software or external interrupt clears its pending bit (60_exceptions.md R417). -/
theorem deliverInterrupt_clears {s : State} (h : Sparse.wf 0#32 s.csrs = true) (target : Priv) {p : Nat}
    (hp : p = 1 ∨ p = 3 ∨ p = 9 ∨ p = 11) : ((deliverInterrupt target p s).csr csrMip).getLsbD p = false := by
  rw [deliverInterrupt, if_pos hp, getLsbD_mip_setMip (deliver_csrs_wf _ _ _ _ _ h _) (by omega), if_pos rfl]

/-- Settles O46: the interrupt line sets bit 9 of mip, and the delivery of interrupt 9 clears it. -/
theorem uartInterruptSetsSeip : Obligations.UartInterruptSetsSeip := by
  intro s hwf t
  have hclear (target : Priv) := deliverInterrupt_clears hwf target (p := 9) (by decide)
  cases hline : s.uart.interrupting with
  | false =>
    have ht : t = s := if_neg (by rw [hline]; decide)
    have hor : (s.uart.threIp || s.uart.rxIp) = false := hline
    rw [ht, hor, Bool.or_false]
    exact ⟨rfl, fun _ _ => rfl, fun _ _ => rfl, rfl, rfl, hclear⟩
  | true =>
    have ht : t = s.setMip 9 true := if_pos hline
    have hor : (s.uart.threIp || s.uart.rxIp) = true := hline
    rw [hor, Bool.or_true]
    refine ⟨?_, fun i hi => ?_, fun a ha => ?_, uartIrq_eq s, rfl, hclear⟩
    · rw [ht, getLsbD_mip_setMip hwf (by decide), if_pos rfl]
    · rw [ht, getLsbD_mip_setMip hwf (by decide), if_neg hi]
    · rw [ht, csr_setMip_of_ne hwf 9 true ha]

end Sys2Proof.Machine

/-!
The CLINT and the RTC: their registers on the bus, byte by byte (20_memory.md R86, R87, R96, R97; 60_exceptions.md R432,
R433).
-/
namespace Sys2Proof.Machine

/-! ### A byte put into a register -/

theorem getLsbD_putByte {n : Nat} (v : BitVec n) (i : Nat) (b : Byte) {k : Nat} (hk : k < n) :
    (putByte v i b).getLsbD k = if 8 * i ≤ k ∧ k < 8 * i + 8 then b.getLsbD (k - 8 * i) else v.getLsbD k := by
  have hmask : (0xFF#8).getLsbD (k - 8 * i) = decide (k - 8 * i < 8) := BitVec.getLsbD_allOnes
  simp only [putByte, BitVec.getLsbD_or, BitVec.getLsbD_and, BitVec.getLsbD_not, BitVec.getLsbD_shiftLeft,
    BitVec.getLsbD_setWidth, hmask, hk, show k - 8 * i < n by omega, decide_true, Bool.true_and]
  split_ifs with h
  · simp [show ¬ k < 8 * i by omega, show k - 8 * i < 8 by omega]
  · by_cases hlow : k < 8 * i
    · simp [hlow]
    · simp [hlow, show ¬ k - 8 * i < 8 by omega, BitVec.getLsbD_of_ge b (k - 8 * i) (by omega)]

/-- Of the bytes of a register only the one put in changes. -/
theorem byteAt_putByte {n : Nat} (v : BitVec n) (i : Nat) (b : Byte) {j : Nat} (hj : 8 * j + 8 ≤ n) :
    byteAt (putByte v i b) j = if j = i then b else byteAt v j := by
  apply BitVec.eq_of_getLsbD_eq
  intro k hk
  rw [byteAt, BitVec.getLsbD_extractLsb', getLsbD_putByte v i b (by omega)]
  by_cases hji : j = i
  · subst hji
    simp [hk]
  · rw [if_neg (by omega), if_neg hji, byteAt, BitVec.getLsbD_extractLsb']

/-! ### The CLINT's own functions, register by register -/

section

variable {i : Nat} (hi : i < 8)
include hi

theorem clintRead_mtimecmp (c : Clint) : clintRead (0x4000 + i) c = byteAt c.mtimecmp i := by
  rw [clintRead, if_neg (by omega), if_pos (by omega), show (0x4000 + i) % 8 = i by omega]

theorem clintRead_mtime (c : Clint) : clintRead (0xBFF8 + i) c = byteAt c.mtime i := by
  rw [clintRead, if_neg (by omega), if_neg (by omega), if_pos (by omega), show (0xBFF8 + i) % 8 = i by omega]

theorem clintWrite_mtimecmp (b : Byte) (s : State) : clintWrite (0x4000 + i) b s =
    ({ s with clint := { s.clint with mtimecmp := putByte s.clint.mtimecmp i b } }.setMip 7 false).setMip 5 false := by
  rw [clintWrite, if_neg (by omega), if_pos (by omega), show (0x4000 + i) % 8 = i by omega]

theorem clintWrite_mtime (b : Byte) (s : State) :
    clintWrite (0xBFF8 + i) b s = { s with clint := { s.clint with mtime := putByte s.clint.mtime i b } } := by
  rw [clintWrite, if_neg (by omega), if_neg (by omega), if_pos (by omega), show (0xBFF8 + i) % 8 = i by omega]

end

theorem clintWrite_msip (b : Byte) (s : State) :
    clintWrite 0 b s = { s with clint := { s.clint with msip := b.getLsbD 0 } }.setMip 3 (b.getLsbD 0) := rfl

/-! ### The CLINT on the bus -/

section

variable {o : Nat} (s : State) (ho : o ≤ 3 ∨ (0x4000 ≤ o ∧ o ≤ 0x4007) ∨ (0xBFF8 ≤ o ∧ o ≤ 0xBFFF))
include ho

/-- The CLINT's three ranges, by offset. -/
theorem window_clint_offset (c : Launch) : window c (0x02000000#32 + BitVec.ofNat 32 o).toNat = .clint := by
  have hn : (0x02000000#32 + BitVec.ofNat 32 o).toNat = 0x02000000 + o := toNat_add_ofNat (by simp; omega)
  unfold window
  obtain h | h | h := ho
  all_goals repeat rw [if_neg (by omega)]
  all_goals rw [if_pos (by omega)]

theorem busPeek_clint : busPeek (0x02000000#32 + BitVec.ofNat 32 o) s = clintRead o s.clint := by
  simp only [busPeek, window_clint_offset ho s.cfg, offset_add_ofNat _ (show o < 4294967296 by omega)]

theorem busWriteByte_clint (b : Byte) : busWriteByte (0x02000000#32 + BitVec.ofNat 32 o) b s = clintWrite o b s := by
  simp only [busWriteByte, window_clint_offset ho s.cfg, offset_add_ofNat _ (show o < 4294967296 by omega)]

end

/-- Settles O43: each register's address is an offset in the CLINT's window, where its own functions say the rest. -/
theorem clintBytesOnBus : Obligations.ClintBytesOnBus := by
  intro s b hwf
  have hmtimecmp (i : Nat) : 0x02004000#32 + BitVec.ofNat 32 i = 0x02000000#32 + BitVec.ofNat 32 (0x4000 + i) :=
    (add_ofNat_add 0x02000000#32 0x4000 i).symm
  have hmtime (i : Nat) : 0x0200BFF8#32 + BitVec.ofNat 32 i = 0x02000000#32 + BitVec.ofNat 32 (0xBFF8 + i) :=
    (add_ofNat_add 0x02000000#32 0xBFF8 i).symm
  refine ⟨busPeek_clint (o := 0) s (by omega), fun i hi => ?_, fun i hi => ⟨?_, ?_⟩,
    fun a ha => busReadEffect_id (by rw [ha]; decide), ?_, fun i hi => ?_, fun i hi => ?_⟩
  · simp only [List.mem_cons, List.not_mem_nil, or_false] at hi
    rw [busPeek_clint s (by omega), busWriteByte_clint s (by omega)]
    obtain rfl | rfl | rfl := hi <;> exact ⟨rfl, rfl⟩
  · rw [hmtimecmp, busPeek_clint s (by omega), clintRead_mtimecmp hi, byteAt]
  · rw [hmtime, busPeek_clint s (by omega), clintRead_mtime hi, byteAt]
  · have hw : busWriteByte 0x02000000#32 b s = clintWrite 0 b s := busWriteByte_clint (o := 0) s (by omega) b
    rw [hw, clintWrite_msip]
    refine ⟨rfl, ?_, fun j hj => ?_, fun a ha => ?_, rfl⟩
    · exact (getLsbD_mip_setMip (by exact hwf) (by decide) _ _).trans (if_pos rfl)
    · exact (getLsbD_mip_setMip (by exact hwf) (by decide) _ _).trans (if_neg hj)
    · exact csr_setMip_of_ne (by exact hwf) _ _ ha
  · rw [hmtimecmp, busWriteByte_clint s (by omega), clintWrite_mtimecmp hi]
    intro t
    have hwf7 := State.wf_setMip { s with clint := { s.clint with mtimecmp := putByte s.clint.mtimecmp i b } } hwf 7 false
    have hbit (j : Nat) : (t.csr csrMip).getLsbD j = if j = 5 then false else if j = 7 then false
        else (s.csr csrMip).getLsbD j := by
      rw [getLsbD_mip_setMip hwf7 (by decide), getLsbD_mip_setMip (by exact hwf) (by decide)]; rfl
    refine ⟨fun j hj => byteAt_putByte s.clint.mtimecmp i b (by omega), rfl, hbit 7, hbit 5, fun j h7 h5 => ?_, fun a ha => ?_,
      rfl⟩
    · rw [hbit, if_neg h5, if_neg h7]
    · exact (csr_setMip_of_ne hwf7 5 false ha).trans (csr_setMip_of_ne (by exact hwf) 7 false ha)
  · rw [hmtime, busWriteByte_clint s (by omega), clintWrite_mtime hi]
    exact ⟨fun j hj => byteAt_putByte s.clint.mtime i b (by omega), rfl⟩

/-! ### The RTC on the bus -/

section

variable {o : Nat} (s : State) (ho : o < 0x800)
include ho

theorem window_rtc_offset (c : Launch) : window c (0x03000000#32 + BitVec.ofNat 32 o).toNat = .rtc := by
  rw [toNat_add_ofNat (by simp; omega)]
  exact window_rtc (by simp) (by simp; omega)

theorem busPeek_rtc : busPeek (0x03000000#32 + BitVec.ofNat 32 o) s = rtcRead o s.rtc := by
  simp only [busPeek, window_rtc_offset ho s.cfg, offset_add_ofNat _ (show o < 4294967296 by omega)]

theorem busWriteByte_rtc (b : Byte) : busWriteByte (0x03000000#32 + BitVec.ofNat 32 o) b s = rtcWrite o b s := by
  simp only [busWriteByte, window_rtc_offset ho s.cfg, offset_add_ofNat _ (show o < 4294967296 by omega)]

end

section

variable {i : Nat} (hi : i < 4) (r : Rtc)
include hi

theorem rtcRead_rtc0 : rtcRead (0x7F8 + i) r = byteAt r.rtc0 i := by
  rw [rtcRead, if_pos (by omega), show (0x7F8 + i) % 4 = i by omega]

theorem rtcRead_rtc1 : rtcRead (0x7FC + i) r = byteAt r.rtc1 i := by
  rw [rtcRead, if_neg (by omega), if_pos (by omega), show (0x7FC + i) % 4 = i by omega]

end

section

variable {i : Nat} (hi : i < 4) {s : State} {t : WallClock} (hs : s.rtc = rtcSnapshot t)
include hi hs

theorem busPeek_snapshot_rtc0 : busPeek (0x03000000#32 + BitVec.ofNat 32 (0x7F8 + i)) s =
    if i = 0 then bcd t.century else if i = 1 then bcd t.seconds else if i = 2 then bcd t.minutes else bcd t.hours := by
  rw [busPeek_rtc s (by omega), rtcRead_rtc0 hi, hs, rtcSnapshot, byteAt_wordOfBytes _ _ _ _ hi]

theorem busPeek_snapshot_rtc1 : busPeek (0x03000000#32 + BitVec.ofNat 32 (0x7FC + i)) s =
    if i = 0 then bcd t.weekday else if i = 1 then bcd (t.day0 + 1) else if i = 2 then bcd (t.month0 + 1)
      else bcd t.year := by
  rw [busPeek_rtc s (by omega), rtcRead_rtc1 hi, hs, rtcSnapshot, byteAt_wordOfBytes _ _ _ _ hi]

end

/-- Settles O47: the window's reads, and the snapshot's bytes as the two-digit codes of the host's numbers. -/
theorem rtcReadsAndSnapshot : Obligations.RtcReadsAndSnapshot := by
  intro s b shows w t at_
  have ht : t = { s with rtc := rtcSnapshot w, host := { s.host with draws := s.host.draws + 1 } } :=
    busWriteByte_rtc (o := 0x7F8) s (by omega) 0x40#8
  have hrtc : t.rtc = rtcSnapshot w := by rw [ht]
  have low {i : Nat} (hi : i < 4) := busPeek_snapshot_rtc0 hi hrtc
  have high {i : Nat} (hi : i < 4) := busPeek_snapshot_rtc1 hi hrtc
  have digits {d : Byte} {n : Nat} (hd : d = bcd n) (hn : n < 100) : shows d n := hd ▸ bcd_toNat hn
  refine ⟨fun i hi => ⟨?_, ?_⟩, fun o ho => ?_, fun a h h' => ?_, by rw [ht],
    digits (low (i := 0) (by omega)) (by omega), digits (low (i := 1) (by omega)) (by omega),
    digits (low (i := 2) (by omega)) (by omega), digits (low (i := 3) (by omega)) (by omega),
    digits (high (i := 0) (by omega)) (by omega), digits (high (i := 1) (by omega)) (by omega),
    digits (high (i := 2) (by omega)) (by omega), digits (high (i := 3) (by omega)) (by omega), fun o ho hne => ?_⟩
  · rw [busPeek_rtc s (by omega), rtcRead_rtc0 hi, byteAt]
  · rw [busPeek_rtc s (by omega), rtcRead_rtc1 hi, byteAt]
  · rw [busPeek_rtc s (by omega), rtcRead, if_neg (by omega), if_neg (by omega)]
  · exact busReadEffect_id (by rw [window_rtc h h']; decide)
  · exact (busWriteByte_rtc s ho b).trans (if_neg hne)

end Sys2Proof.Machine

/-!
The Sv32 walk (20_memory.md R110 to R118): when it yields an address, and when it is not run at all.
-/
namespace Sys2Proof.Machine

/-! ### The checks of an entry -/

section

variable (p : Word) {eff : BitVec 2} {acc : Access} {ms va pa : Word}

/-- An entry some level accepts: valid, and not writable without being readable (20_memory.md R110). -/
theorem pteBad_eq_false_iff :
    pteBad p = false ↔ p.getLsbD 0 = true ∧ ¬ (p.getLsbD 1 = false ∧ p.getLsbD 2 = true) := by
  simp [pteBad, pteV, pteR, pteW, -BitVec.getLsbD_eq_getElem]

theorem pteLeaf_iff : (pteR p || pteX p) = true ↔ p.getLsbD 1 = true ∨ p.getLsbD 3 = true := Bool.or_eq_true_iff

/-- Below M a page of U is open to U, and to S under SUM; the others to S only (20_memory.md R115). -/
theorem permOk_iff (heff : eff ≠ 3#2) (sum : Bool) :
    permOk eff sum p = true ↔
      (eff = 0#2 ∧ p.getLsbD 4 = true) ∨ (eff = 1#2 ∧ (p.getLsbD 4 = false ∨ sum = true)) := by
  simp [permOk, pteU, heff, -BitVec.getLsbD_eq_getElem]

/-- A leaf yields an address when it passes the permission and the access check, is aligned as a superpage, and its A
and D bits are set (20_memory.md R114 to R118). -/
theorem leafAddr_eq_some_iff (super : Bool) :
    leafAddr va acc eff ms super p = some pa ↔
      (permOk eff (ms.getLsbD 18) p = true ∧ accessOk acc (ms.getLsbD 19) p = true ∧ pteA p = true ∧
        (acc = .write → pteD p = true)) ∧
      (super = true → ptePpn0 p = 0#10) ∧
      pa = p.extractLsb' 20 10 ++ (if super then vpn0 va else ptePpn0 p) ++ va.extractLsb' 0 12 := by
  unfold leafAddr
  split
  · next hdenied =>
    refine ⟨nofun, ?_⟩
    rintro ⟨⟨hperm, haccess, -⟩, -⟩
    rw [hperm, haccess] at hdenied
    exact absurd hdenied (by decide)
  · next hallowed =>
    split
    · next hmisaligned =>
      refine ⟨nofun, ?_⟩
      rintro ⟨-, haligned, -⟩
      simp_all
    · next haligned =>
      split
      · next hunset =>
        refine ⟨nofun, ?_⟩
        rintro ⟨⟨-, -, haccessed, hdirty⟩, -⟩
        simp_all
      · next hset =>
        rw [Option.some_inj, eq_comm]
        refine (and_iff_right ?_).symm.trans and_assoc
        simp_all

/-- No page is open to the reserved privilege 2 (20_memory.md R111, R115). -/
theorem leafAddr_reserved (super : Bool) : leafAddr va acc 2#2 ms super p = none := rfl

end

/-! ### The two levels -/

/-- The walk yields an address from a leaf at the first level, or from one at the second level that the first points to
(20_memory.md R110). -/
theorem walk_eq_some_iff {va pa : Word} {acc : Access} {eff : BitVec 2} {s : State} {p1 p0 : Word × State}
    (h1 : busRead 4 (pteAddr s.mmu.ppn (vpn1 va)) s = p1)
    (h0 : busRead 4 (pteAddr (ptePpn p1.1) (vpn0 va)) p1.2 = p0) :
    (walk va acc eff s).1 = some pa ↔
      pteBad p1.1 = false ∧
        ((pteR p1.1 || pteX p1.1) = true ∧ leafAddr va acc eff (s.csr csrMstatus) true p1.1 = some pa ∨
          (pteR p1.1 || pteX p1.1) = false ∧ pteBad p0.1 = false ∧ (pteR p0.1 || pteX p0.1) = true ∧
            leafAddr va acc eff (s.csr csrMstatus) false p0.1 = some pa) := by
  unfold walk
  simp only [h1, h0]
  split_ifs with hbad1 hleaf1 hbad0
  · simp [hbad1]
  · simp [hbad1, hleaf1]
  · grind
  · grind

/-- No access of the reserved privilege translates (20_memory.md R111, R115). -/
theorem walk_reserved (va : Word) (acc : Access) (s : State) : (walk va acc 2#2 s).1 = none := by
  unfold walk
  dsimp only
  split
  · rfl
  · split
    · dsimp only; exact leafAddr_reserved _ true
    · split
      · rfl
      · dsimp only; exact leafAddr_reserved _ false

/-- Settles O50: the walk's two levels, with each check in the words of its rule. -/
theorem translationWalkIsExact : Obligations.TranslationWalkIsExact := by
  intro va pa acc s hon hfetch ms eff p1 p0 valid leaf permits heff
  have hpermits (p : Word) : permits p ↔ permOk eff (ms.getLsbD 18) p = true ∧ accessOk acc (ms.getLsbD 19) p = true ∧
      pteA p = true ∧ (acc = .write → pteD p = true) := by
    rw [permOk_iff p heff]
    cases acc with
    | fetch | write => exact Iff.rfl
    | read => simp [permits, accessOk, pteA, pteR, pteX, -BitVec.getLsbD_eq_getElem]
  have hsuper (p : Word) : leafAddr va acc eff ms true p = some pa ↔ permits p ∧ p.extractLsb' 10 10 = 0#10 ∧
      pa = p.extractLsb' 20 10 ++ va.extractLsb' 12 10 ++ va.extractLsb' 0 12 := by
    rw [leafAddr_eq_some_iff, hpermits]
    simp [ptePpn0, vpn0]
  have hpage (p : Word) : leafAddr va acc eff ms false p = some pa ↔ permits p ∧
      pa = p.extractLsb' 20 10 ++ p.extractLsb' 10 10 ++ va.extractLsb' 0 12 := by
    rw [leafAddr_eq_some_iff, hpermits]
    simp [ptePpn0]
  have hpointer (p : Word) : (pteR p || pteX p) = false ↔ ¬ leaf p := by
    rw [← Bool.not_eq_true, pteLeaf_iff]
  have h1 : busRead 4 (pteAddr s.mmu.ppn (vpn1 va)) s = p1 := rfl
  have h0 : busRead 4 (pteAddr (ptePpn p1.1) (vpn0 va)) p1.2 = p0 := rfl
  have hwalk : (translate va acc s).1 = (walk va acc eff s).1 := congrArg Prod.fst (translate_walk hon heff hfetch va)
  rw [hwalk, walk_eq_some_iff h1 h0, hsuper, hpage, hpointer, pteLeaf_iff, pteLeaf_iff,
    pteBad_eq_false_iff, pteBad_eq_false_iff]
  exact and_or_left

/-! ### Where there is no walk -/

/-- A data access with an effective privilege of M bypasses (20_memory.md R111). -/
theorem translate_eff_m {s : State} {acc : Access} (h : effectivePriv acc s = 3#2) (va : Word) :
    translate va acc s = (some va, s) := by
  unfold translate
  split
  · rfl
  · rw [if_pos (.inl h)]

theorem effectivePriv_mprv {s : State} {acc : Access} (hacc : acc ≠ .fetch) (h : (s.csr csrMstatus).getLsbD 17 = true) :
    effectivePriv acc s = mppOf (s.csr csrMstatus) := if_pos ⟨h, hacc⟩

theorem effectivePriv_mode {s : State} {acc : Access} (h : (s.csr csrMstatus).getLsbD 17 = false) :
    effectivePriv acc s = s.priv.code := if_neg fun hm => by rw [h] at hm; exact absurd hm.1 Bool.false_ne_true

/-- Settles O49: the bypasses one by one, and the reserved privilege's walk. -/
theorem translationBypassIsIdentity : Obligations.TranslationBypassIsIdentity := by
  intro va acc s ms
  refine ⟨fun h => translate_off h va acc, fun h => translate_fetch_m h va, fun _ hpriv hmprv => ?_,
    fun hacc hmprv hmpp => ?_, fun hacc hon hmprv hmpp => ?_⟩
  · exact translate_eff_m (by rw [effectivePriv_mode hmprv, hpriv]; rfl) va
  · exact translate_eff_m ((effectivePriv_mprv hacc hmprv).trans hmpp) va
  · have heff : effectivePriv acc s = 2#2 := (effectivePriv_mprv hacc hmprv).trans hmpp
    rw [translate_walk hon (by rw [heff]; decide) (fun h => hacc h.2), heff]
    exact walk_reserved va acc s

end Sys2Proof.Machine

/-!
Words, fields and masks (30_encoding.md R141 to R145): the immediates as sign extensions, the fields of an encoding, what
each mask keeps, and a word put together from its fields and its immediate.
-/
namespace Sys2Proof

/-! ### Immediates as sign extensions (R143) -/

theorem setWidth_signExtend_of_le {n : Nat} (x : BitVec n) (hn : n ≤ 32) : (x.signExtend 32).setWidth n = x := by
  apply BitVec.eq_of_getLsbD_eq
  intro i hi
  rw [BitVec.getLsbD_setWidth, BitVec.getLsbD_signExtend]
  simp [hi, show i < 32 by omega]

theorem eq_append_of_even {n : Nat} {x : BitVec (n + 1)} (h : x.getLsbD 0 = false) : x = x.extractLsb' 1 n ++ 0#1 := by
  apply BitVec.eq_of_getLsbD_eq
  intro i hi
  rw [BitVec.getLsbD_append, BitVec.getLsbD_extractLsb']
  cases i with
  | zero => simpa using h
  | succ i => simp [show i < n by omega, Nat.add_comm]

/-- The words that are sign extensions of `n` bits. -/
theorem sext_iff {n : Nat} (hn : n ≤ 32) {imm : Word} :
    (imm.setWidth n).signExtend 32 = imm ↔ ∃ x : BitVec n, imm = x.signExtend 32 := by
  constructor
  · exact fun h => ⟨_, h.symm⟩
  · rintro ⟨x, rfl⟩
    rw [setWidth_signExtend_of_le x hn]

/-- The words that are sign extensions of `n` bits and a zero bit below them. -/
theorem even_sext_iff {n : Nat} (hn : n + 1 ≤ 32) {imm : Word} :
    ((imm.setWidth (n + 1)).signExtend 32 = imm ∧ imm.getLsbD 0 = false) ↔
      ∃ x : BitVec n, imm = (x ++ 0#1).signExtend 32 := by
  constructor
  · rintro ⟨h, h0⟩
    have heven : (imm.setWidth (n + 1)).getLsbD 0 = false := by simpa using h0
    exact ⟨_, by rw [← eq_append_of_even heven, h]⟩
  · rintro ⟨x, rfl⟩
    refine ⟨(sext_iff hn).2 ⟨_, rfl⟩, ?_⟩
    rw [BitVec.getLsbD_signExtend, BitVec.getLsbD_append]
    simp

theorem immISok_iff {imm : Word} : immISok imm = true ↔ ∃ x : BitVec 12, imm = x.signExtend 32 := by
  rw [immISok, beq_iff_eq, sext_iff (by omega)]

theorem immBok_iff {imm : Word} : immBok imm = true ↔ ∃ x : BitVec 12, imm = (x ++ 0#1).signExtend 32 := by
  simp [immBok, ← even_sext_iff]

theorem immJok_iff {imm : Word} : immJok imm = true ↔ ∃ x : BitVec 20, imm = (x ++ 0#1).signExtend 32 := by
  simp [immJok, ← even_sext_iff]

/-- The U immediate as its twenty bits. -/
theorem immU_eq (w : Word) : immU w = w.extractLsb' 12 20 ++ 0#12 := by
  apply BitVec.eq_of_getLsbD_eq
  intro i hi
  rw [immU]
  interval_cases i <;> simp only [BitVec.getLsbD_and, BitVec.getLsbD_append, BitVec.getLsbD_extractLsb'] <;> simp

theorem immUok_iff {imm : Word} : immUok imm = true ↔ ∃ x : BitVec 20, imm = x ++ 0#12 := by
  rw [immUok, beq_iff_eq]
  constructor
  · intro h
    have hlow : imm.toNat % 4096 = 0 := by simpa using congrArg BitVec.toNat h
    have := imm.isLt
    refine ⟨imm.extractLsb' 12 20, BitVec.eq_of_toNat_eq ?_⟩
    rw [toNat_append_eq, BitVec.extractLsb'_toNat, Nat.shiftRight_eq_div_pow, BitVec.toNat_ofNat]
    omega
  · rintro ⟨x, rfl⟩
    apply BitVec.eq_of_toNat_eq
    rw [BitVec.toNat_setWidth, toNat_append_eq, BitVec.toNat_ofNat]
    omega

/-! ### The fields of a word and of an encoding (R141) -/

/-- `w[31:25]`. -/
abbrev fieldFunct7 (w : Word) : BitVec 7 := w.extractLsb' 25 7
/-- `w[31:26]`. -/
abbrev fieldFunct6 (w : Word) : BitVec 6 := w.extractLsb' 26 6
/-- `w[31:27]`. -/
abbrev fieldFunct5 (w : Word) : BitVec 5 := w.extractLsb' 27 5

theorem ofBool_getLsbD (w : Word) (k : Nat) : BitVec.ofBool (w.getLsbD k) = w.extractLsb' k 1 := by
  apply BitVec.eq_of_getLsbD_eq
  intro i hi
  obtain rfl : i = 0 := by omega
  simp

section
variable (w : Word)

theorem fieldCsr_funct7 : fieldCsr w = fieldFunct7 w ++ fieldRs2 w :=
  (BitVec.extractLsb'_append_extractLsb'_eq_extractLsb' (show 25 = 20 + 5 from rfl)).symm

theorem fieldCsr_funct6 : fieldCsr w = fieldFunct6 w ++ BitVec.ofBool (w.getLsbD 25) ++ fieldShamt w := by
  rw [ofBool_getLsbD, BitVec.extractLsb'_append_extractLsb'_eq_extractLsb' (show 26 = 25 + 1 from rfl)]
  exact fieldCsr_funct7 w

theorem fieldCsr_funct5 :
    fieldCsr w = fieldFunct5 w ++ BitVec.ofBool (fieldAq w) ++ BitVec.ofBool (fieldRl w) ++ fieldRs2 w := by
  rw [fieldAq, ofBool_getLsbD, BitVec.extractLsb'_append_extractLsb'_eq_extractLsb' (show 27 = 26 + 1 from rfl)]
  exact fieldCsr_funct6 w

theorem fieldCsr_fence : fieldCsr w = fieldFm w ++ fieldPred w ++ fieldSucc w := by
  rw [fieldFm, fieldPred, BitVec.extractLsb'_append_extractLsb'_eq_extractLsb' (show 28 = 24 + 4 from rfl)]
  exact (BitVec.extractLsb'_append_extractLsb'_eq_extractLsb' (show 24 = 20 + 4 from rfl)).symm

end

section
variable (hi : BitVec 12) (rs1 : BitVec 5) (f3 : BitVec 3) (rd : BitVec 5) (op : BitVec 7)

/-- A field within the high twelve bits of an encoding. -/
theorem extractLsb'_encodeRaw {k n : Nat} (h : 20 ≤ k) :
    (encodeRaw hi rs1 f3 rd op).extractLsb' k n = hi.extractLsb' (k - 20) n := by
  simp only [encodeRaw]
  rw [BitVec.extractLsb'_append_eq_of_le (by omega), BitVec.extractLsb'_append_eq_of_le (by omega),
    BitVec.extractLsb'_append_eq_of_le (by omega), BitVec.extractLsb'_append_eq_of_le (by omega)]
  rfl

theorem getLsbD_encodeRaw {k : Nat} (h : 20 ≤ k) : (encodeRaw hi rs1 f3 rd op).getLsbD k = hi.getLsbD (k - 20) := by
  simp only [encodeRaw, BitVec.getLsbD_append]
  rw [if_neg (by omega), if_neg (by omega), if_neg (by omega), if_neg (by omega)]
  rfl

end

/-! ### What a mask keeps, as a format whose ignored operands are zero -/

theorem append_zero_zero {k : Nat} (a : BitVec k) (n m : Nat) : (a ++ 0#n ++ 0#m).toNat = (a ++ 0#(n + m)).toNat := by
  simp only [toNat_append_eq, BitVec.toNat_ofNat, Nat.zero_mod, Nat.pow_add, Nat.mul_assoc, Nat.add_zero]

section
variable (w : Word)

theorem and_707f : w &&& 0x0000707f#32 = encodeRaw 0#12 0#5 (fieldFunct3 w) 0#5 (fieldOp w) := mask_707f w

theorem and_fe00707f :
    w &&& 0xfe00707f#32 = encodeR (fieldFunct7 w) 0#5 0#5 (fieldFunct3 w) 0#5 (fieldOp w) := by
  rw [mask_fe00707f, fieldCsr_funct7, hi_funct7]; rfl

theorem and_fe007fff :
    w &&& 0xfe007fff#32 = encodeR (fieldFunct7 w) 0#5 0#5 (fieldFunct3 w) (fieldRd w) (fieldOp w) := by
  rw [mask_fe007fff, fieldCsr_funct7, hi_funct7]; rfl

theorem and_fc00707f :
    w &&& 0xfc00707f#32 = encodeShift (fieldFunct6 w) false 0#5 0#5 (fieldFunct3 w) 0#5 (fieldOp w) := by
  have hzero : fieldFunct6 w ++ 0#6 = fieldFunct6 w ++ 0#1 ++ 0#5 :=
    (BitVec.eq_of_toNat_eq (append_zero_zero _ 1 5)).symm
  rw [mask_fc00707f, fieldCsr_funct6, hi_funct6, encodeShift_raw, hzero]; rfl

theorem and_f800707f :
    w &&& 0xf800707f#32 = encodeAmo (fieldFunct5 w) false false 0#5 0#5 (fieldFunct3 w) 0#5 (fieldOp w) := by
  have hzero : fieldFunct5 w ++ 0#7 = fieldFunct5 w ++ 0#1 ++ 0#1 ++ 0#5 := BitVec.eq_of_toNat_eq (by
    rw [append_zero_zero _ 1 5, append_zero_zero _ 1 6])
  rw [mask_f800707f, fieldCsr_funct5, hi_funct5, encodeAmo_raw, hzero]; rfl

theorem and_f9f0707f : w &&& 0xf9f0707f#32 =
    encodeAmo (fieldFunct5 w) false false (fieldRs2 w) 0#5 (fieldFunct3 w) 0#5 (fieldOp w) := by
  have hzero : fieldFunct5 w ++ 0#2 = fieldFunct5 w ++ 0#1 ++ 0#1 :=
    (BitVec.eq_of_toNat_eq (append_zero_zero _ 1 1)).symm
  rw [mask_f9f0707f, fieldCsr_funct5, hi_funct5_rs2, encodeAmo_raw, hzero]; rfl

end

section
variable (rs1 : BitVec 5) (f3 : BitVec 3) (rd : BitVec 5) (op : BitVec 7)

@[simp] theorem fieldFunct7_encodeR (f7 : BitVec 7) (rs2 : BitVec 5) :
    fieldFunct7 (encodeRaw (f7 ++ rs2) rs1 f3 rd op) = f7 :=
  (extractLsb'_encodeRaw _ _ _ _ _ (by omega)).trans BitVec.extractLsb'_append_eq_left

@[simp] theorem fieldRs2_encodeR (f7 : BitVec 7) (rs2 : BitVec 5) :
    fieldRs2 (encodeRaw (f7 ++ rs2) rs1 f3 rd op) = rs2 :=
  (extractLsb'_encodeRaw _ _ _ _ _ (by omega)).trans BitVec.extractLsb'_append_eq_right

@[simp] theorem fieldFunct5_encodeAmo (f5 : BitVec 5) (aq rl : BitVec 1) (rs2 : BitVec 5) :
    fieldFunct5 (encodeRaw (f5 ++ aq ++ rl ++ rs2) rs1 f3 rd op) = f5 := by
  rw [fieldFunct5, extractLsb'_encodeRaw _ _ _ _ _ (by omega)]
  exact (BitVec.extractLsb'_append_eq_of_le (by omega)).trans <|
    (BitVec.extractLsb'_append_eq_of_le (by omega)).trans BitVec.extractLsb'_append_eq_left

@[simp] theorem fieldRs2_encodeAmo (f5 : BitVec 5) (aq rl : BitVec 1) (rs2 : BitVec 5) :
    fieldRs2 (encodeRaw (f5 ++ aq ++ rl ++ rs2) rs1 f3 rd op) = rs2 :=
  (extractLsb'_encodeRaw _ _ _ _ _ (by omega)).trans BitVec.extractLsb'_append_eq_right

@[simp] theorem fieldAq_encodeAmo (f5 : BitVec 5) (aq rl : Bool) (rs2 : BitVec 5) :
    fieldAq (encodeRaw (f5 ++ BitVec.ofBool aq ++ BitVec.ofBool rl ++ rs2) rs1 f3 rd op) = aq := by
  rw [fieldAq, getLsbD_encodeRaw _ _ _ _ _ (by omega)]
  simp only [BitVec.getLsbD_append]
  simp

@[simp] theorem fieldRl_encodeAmo (f5 : BitVec 5) (aq rl : Bool) (rs2 : BitVec 5) :
    fieldRl (encodeRaw (f5 ++ BitVec.ofBool aq ++ BitVec.ofBool rl ++ rs2) rs1 f3 rd op) = rl := by
  rw [fieldRl, getLsbD_encodeRaw _ _ _ _ _ (by omega)]
  simp only [BitVec.getLsbD_append]
  simp

@[simp] theorem fieldFunct6_encodeShift (f6 : BitVec 6) (b25 : BitVec 1) (shamt : BitVec 5) :
    fieldFunct6 (encodeRaw (f6 ++ b25 ++ shamt) rs1 f3 rd op) = f6 := by
  rw [fieldFunct6, extractLsb'_encodeRaw _ _ _ _ _ (by omega)]
  exact (BitVec.extractLsb'_append_eq_of_le (by omega)).trans BitVec.extractLsb'_append_eq_left

@[simp] theorem fieldShamt_encodeShift (f6 : BitVec 6) (b25 : BitVec 1) (shamt : BitVec 5) :
    fieldShamt (encodeRaw (f6 ++ b25 ++ shamt) rs1 f3 rd op) = shamt :=
  (extractLsb'_encodeRaw _ _ _ _ _ (by omega)).trans BitVec.extractLsb'_append_eq_right

theorem getLsbD_encodeShift (f6 : BitVec 6) (b25 : Bool) (shamt : BitVec 5) :
    (encodeRaw (f6 ++ BitVec.ofBool b25 ++ shamt) rs1 f3 rd op).getLsbD 25 = b25 := by
  rw [getLsbD_encodeRaw _ _ _ _ _ (by omega)]
  simp only [BitVec.getLsbD_append]
  simp

@[simp] theorem fieldFm_encodeFence (fm pred succ : BitVec 4) :
    fieldFm (encodeRaw (fm ++ pred ++ succ) rs1 f3 rd op) = fm := by
  rw [fieldFm, extractLsb'_encodeRaw _ _ _ _ _ (by omega)]
  exact (BitVec.extractLsb'_append_eq_of_le (by omega)).trans BitVec.extractLsb'_append_eq_left

@[simp] theorem fieldPred_encodeFence (fm pred succ : BitVec 4) :
    fieldPred (encodeRaw (fm ++ pred ++ succ) rs1 f3 rd op) = pred := by
  rw [fieldPred, extractLsb'_encodeRaw _ _ _ _ _ (by omega)]
  exact (BitVec.extractLsb'_append_eq_of_le (by omega)).trans BitVec.extractLsb'_append_eq_right

@[simp] theorem fieldSucc_encodeFence (fm pred succ : BitVec 4) :
    fieldSucc (encodeRaw (fm ++ pred ++ succ) rs1 f3 rd op) = succ := by
  rw [fieldSucc, extractLsb'_encodeRaw _ _ _ _ _ (by omega)]
  exact BitVec.extractLsb'_append_eq_right

end

/-! ### When a word agrees with a row's bits -/

section
variable {w b : Word}

theorem masked_7f_iff (hb : b &&& 0x0000007f#32 = b) : w &&& 0x0000007f#32 = b ↔ fieldOp w = fieldOp b := by
  refine ⟨fun h => ?_, fun hop => by rw [mask_7f, hop, ← mask_7f, hb]⟩
  apply BitVec.eq_of_toNat_eq
  rw [← h, mask_7f, BitVec.extractLsb'_toNat (x := BitVec.setWidth 32 _), BitVec.toNat_setWidth]
  omega

theorem masked_707f_iff (hb : b &&& 0x0000707f#32 = b) :
    w &&& 0x0000707f#32 = b ↔ fieldFunct3 w = fieldFunct3 b ∧ fieldOp w = fieldOp b := by
  refine ⟨fun h => ?_, fun ⟨h3, hop⟩ => by rw [and_707f, h3, hop, ← and_707f, hb]⟩
  simp [← h, and_707f]

theorem masked_fe00707f_iff (hb : b &&& 0xfe00707f#32 = b) : w &&& 0xfe00707f#32 = b ↔
    fieldFunct7 w = fieldFunct7 b ∧ fieldFunct3 w = fieldFunct3 b ∧ fieldOp w = fieldOp b := by
  refine ⟨fun h => ?_, fun ⟨h7, h3, hop⟩ => by rw [and_fe00707f, h7, h3, hop, ← and_fe00707f, hb]⟩
  simp [← h, and_fe00707f, encodeR_raw]

theorem masked_fe007fff_iff (hb : b &&& 0xfe007fff#32 = b) : w &&& 0xfe007fff#32 = b ↔
    fieldFunct7 w = fieldFunct7 b ∧ fieldFunct3 w = fieldFunct3 b ∧ fieldRd w = fieldRd b ∧
      fieldOp w = fieldOp b := by
  refine ⟨fun h => ?_, fun ⟨h7, h3, hrd, hop⟩ => by rw [and_fe007fff, h7, h3, hrd, hop, ← and_fe007fff, hb]⟩
  simp [← h, and_fe007fff, encodeR_raw]

theorem masked_fc00707f_iff (hb : b &&& 0xfc00707f#32 = b) : w &&& 0xfc00707f#32 = b ↔
    fieldFunct6 w = fieldFunct6 b ∧ fieldFunct3 w = fieldFunct3 b ∧ fieldOp w = fieldOp b := by
  refine ⟨fun h => ?_, fun ⟨h6, h3, hop⟩ => by rw [and_fc00707f, h6, h3, hop, ← and_fc00707f, hb]⟩
  simp [← h, and_fc00707f, encodeShift_raw]

theorem masked_f800707f_iff (hb : b &&& 0xf800707f#32 = b) : w &&& 0xf800707f#32 = b ↔
    fieldFunct5 w = fieldFunct5 b ∧ fieldFunct3 w = fieldFunct3 b ∧ fieldOp w = fieldOp b := by
  refine ⟨fun h => ?_, fun ⟨h5, h3, hop⟩ => by rw [and_f800707f, h5, h3, hop, ← and_f800707f, hb]⟩
  simp [← h, and_f800707f, encodeAmo_raw]

theorem masked_f9f0707f_iff (hb : b &&& 0xf9f0707f#32 = b) : w &&& 0xf9f0707f#32 = b ↔
    fieldFunct5 w = fieldFunct5 b ∧ fieldRs2 w = fieldRs2 b ∧ fieldFunct3 w = fieldFunct3 b ∧
      fieldOp w = fieldOp b := by
  refine ⟨fun h => ?_, fun ⟨h5, h2, h3, hop⟩ => by rw [and_f9f0707f, h5, h2, h3, hop, ← and_f9f0707f, hb]⟩
  simp [← h, and_f9f0707f, encodeAmo_raw]

end

/-- A row's match value has no bit outside its mask (R145). -/
theorem opcodeRows_bits_masked : ∀ r ∈ opcodeRows, r.bits &&& r.mask = r.bits := by decide

/-! ### The immediates of an encoding -/

/-- The twelve bits of a B immediate above its zero bit. -/
abbrev bitsB (w : Word) : BitVec 12 :=
  w.extractLsb' 31 1 ++ w.extractLsb' 7 1 ++ w.extractLsb' 25 6 ++ w.extractLsb' 8 4
/-- The twenty bits of a J immediate above its zero bit. -/
abbrev bitsJ (w : Word) : BitVec 20 :=
  w.extractLsb' 31 1 ++ w.extractLsb' 12 8 ++ w.extractLsb' 20 1 ++ w.extractLsb' 21 10

theorem immI_eq (w : Word) : immI w = (fieldCsr w).signExtend 32 := rfl
theorem immS_eq (w : Word) : immS w = (fieldFunct7 w ++ fieldRd w).signExtend 32 := rfl
theorem immB_eq (w : Word) : immB w = (bitsB w ++ 0#1).signExtend 32 := rfl
theorem immJ_eq (w : Word) : immJ w = (bitsJ w ++ 0#1).signExtend 32 := rfl

theorem extractLsb'_signExtend_of_le {n k len : Nat} (x : BitVec n) (h : k + len ≤ n) (hn : n ≤ 32) :
    (x.signExtend 32).extractLsb' k len = x.extractLsb' k len := by
  apply BitVec.eq_of_getLsbD_eq
  intro i hi
  rw [BitVec.getLsbD_extractLsb', BitVec.getLsbD_extractLsb', BitVec.getLsbD_signExtend]
  simp [hi, show k + i < n by omega, show k + i < 32 by omega]

section
variable {imm : Word} (rs2 rs1 : Reg) (f3 : BitVec 3) (rd : Reg) (op : BitVec 7)

theorem immI_encodeI (h : immISok imm = true) : immI (encodeI imm rs1 f3 rd op) = imm := by
  obtain ⟨x, rfl⟩ := immISok_iff.1 h
  rw [immI_eq, encodeI, fieldCsr_encodeRaw, extractLsb'_signExtend_of_le x (by omega) (by omega),
    BitVec.extractLsb'_eq_self]

theorem immS_encodeS (h : immISok imm = true) : immS (encodeS imm rs2 rs1 f3 op) = imm := by
  obtain ⟨x, rfl⟩ := immISok_iff.1 h
  rw [immS_eq, encodeS_raw, fieldFunct7_encodeR, fieldRd_encodeRaw, extractLsb'_signExtend_of_le x (by omega) (by omega),
    extractLsb'_signExtend_of_le x (by omega) (by omega),
    BitVec.extractLsb'_append_extractLsb'_eq_extractLsb' (show 5 = 0 + 5 from rfl), BitVec.extractLsb'_eq_self]

theorem immB_encodeB (h : immBok imm = true) : immB (encodeB imm rs2 rs1 f3 op) = imm := by
  obtain ⟨x, rfl⟩ := immBok_iff.1 h
  have hbits : bitsB (encodeB ((x ++ 0#1).signExtend 32) rs2 rs1 f3 op) = x := by
    apply BitVec.eq_of_getLsbD_eq
    intro i hi
    unfold encodeB
    interval_cases i <;>
      simp only [BitVec.getLsbD_append, BitVec.getLsbD_extractLsb', BitVec.getLsbD_signExtend] <;> simp
  rw [immB_eq, hbits]

theorem immJ_encodeJ (h : immJok imm = true) : immJ (encodeJ imm rd op) = imm := by
  obtain ⟨x, rfl⟩ := immJok_iff.1 h
  have hbits : bitsJ (encodeJ ((x ++ 0#1).signExtend 32) rd op) = x := by
    apply BitVec.eq_of_getLsbD_eq
    intro i hi
    unfold encodeJ
    interval_cases i <;>
      simp only [BitVec.getLsbD_append, BitVec.getLsbD_extractLsb', BitVec.getLsbD_signExtend] <;> simp
  rw [immJ_eq, hbits]

theorem immU_encodeU (h : immUok imm = true) : immU (encodeU imm rd op) = imm := by
  obtain ⟨x, rfl⟩ := immUok_iff.1 h
  apply BitVec.eq_of_toNat_eq
  rw [immU_eq, toNat_append_eq, BitVec.extractLsb'_toNat, encodeU_toNat, toNat_append_eq,
    Nat.shiftRight_eq_div_pow, BitVec.toNat_ofNat]
  omega

end

/-! ### A word from its fields and its immediate -/

section
variable (w : Word)

theorem encodeI_fields : encodeI (immI w) (fieldRs1 w) (fieldFunct3 w) (fieldRd w) (fieldOp w) = w := by
  rw [encodeI, immI_eq, extractLsb'_signExtend_of_le _ (by omega) (by omega), BitVec.extractLsb'_eq_self, encodeRaw_fields]

theorem encodeR_fields :
    encodeR (fieldFunct7 w) (fieldRs2 w) (fieldRs1 w) (fieldFunct3 w) (fieldRd w) (fieldOp w) = w := by
  rw [encodeR_raw, ← fieldCsr_funct7, encodeRaw_fields]

theorem encodeShift_fields : encodeShift (fieldFunct6 w) (w.getLsbD 25) (fieldShamt w) (fieldRs1 w) (fieldFunct3 w)
    (fieldRd w) (fieldOp w) = w := by
  rw [encodeShift_raw, ← fieldCsr_funct6, encodeRaw_fields]

theorem encodeAmo_fields : encodeAmo (fieldFunct5 w) (fieldAq w) (fieldRl w) (fieldRs2 w) (fieldRs1 w) (fieldFunct3 w)
    (fieldRd w) (fieldOp w) = w := by
  rw [encodeAmo_raw, ← fieldCsr_funct5, encodeRaw_fields]

theorem encodeS_fields : encodeS (immS w) (fieldRs2 w) (fieldRs1 w) (fieldFunct3 w) (fieldOp w) = w := by
  rw [encodeS_raw, immS_eq, extractLsb'_signExtend_of_le _ (by omega) (by omega),
    extractLsb'_signExtend_of_le _ (by omega) (by omega), BitVec.extractLsb'_append_eq_left,
    BitVec.extractLsb'_append_eq_right, ← fieldCsr_funct7, encodeRaw_fields]

theorem encodeB_fields : encodeB (immB w) (fieldRs2 w) (fieldRs1 w) (fieldFunct3 w) (fieldOp w) = w := by
  apply BitVec.eq_of_getLsbD_eq
  intro i hi
  unfold encodeB
  interval_cases i <;>
    simp only [immB_eq, fieldRs2, fieldRs1, BitVec.getLsbD_append, BitVec.getLsbD_extractLsb',
      BitVec.getLsbD_signExtend] <;> simp

theorem encodeU_fields : encodeU (immU w) (fieldRd w) (fieldOp w) = w := by
  apply BitVec.eq_of_toNat_eq
  rw [encodeU_toNat, immU_eq, toNat_append_eq]
  simp only [fieldRd, BitVec.extractLsb'_toNat, Nat.shiftRight_eq_div_pow]
  omega

theorem encodeJ_fields : encodeJ (immJ w) (fieldRd w) (fieldOp w) = w := by
  apply BitVec.eq_of_getLsbD_eq
  intro i hi
  unfold encodeJ
  interval_cases i <;>
    simp only [immJ_eq, fieldRd, BitVec.getLsbD_append, BitVec.getLsbD_extractLsb', BitVec.getLsbD_signExtend] <;> simp

end

end Sys2Proof

/-!
Decoding and encoding undo each other (30_encoding.md R141 to R147): one lemma per format and direction; the claims go
through the constructors and through the rows.
-/
namespace Sys2Proof

/-! ### Decoding of an encoding, format by format -/

theorem mem_table1 {r : Row} (h : r ∈ table1) : r ∈ opcodeRows := by simp [opcodeRows, h]
theorem mem_table2Control {r : Row} (h : r ∈ table2Control) : r ∈ opcodeRows := by simp [opcodeRows, h]
theorem mem_table2Memory {r : Row} (h : r ∈ table2Memory) : r ∈ opcodeRows := by simp [opcodeRows, h]
theorem mem_table2OpImm {r : Row} (h : r ∈ table2OpImm) : r ∈ opcodeRows := by simp [opcodeRows, h]
theorem mem_table2System {r : Row} (h : r ∈ table2System) : r ∈ opcodeRows := by simp [opcodeRows, h]
theorem mem_table3 {r : Row} (h : r ∈ table3) : r ∈ opcodeRows := by simp [opcodeRows, h]
theorem mem_table4 {r : Row} (h : r ∈ table4) : r ∈ opcodeRows := by simp [opcodeRows, h]
theorem mem_table5 {r : Row} (h : r ∈ table5) : r ∈ opcodeRows := by simp [opcodeRows, h]
theorem mem_table6 {r : Row} (h : r ∈ table6) : r ∈ opcodeRows := by simp [opcodeRows, h]
theorem mem_table7 {r : Row} (h : r ∈ table7) : r ∈ opcodeRows := by simp [opcodeRows, h]

/-- The decoder reads a word by any row whose bits it has under the row's mask. -/
theorem decode_of_masked {m b w : Word} {read : Word → Instr} (hr : ⟨m, b, read⟩ ∈ opcodeRows) (h : w &&& m = b) :
    decode w = .ok (read w) := decode_of_row hr (selects_of_eq h)

section
variable {f7 : BitVec 7} {f6 : BitVec 6} {f5 : BitVec 5} {f3 : BitVec 3} {op : BitVec 7} {rd rs1 rs2 : Reg} {imm : Word}

theorem decode_encodeU {c : Reg → Word → Instr}
    (hr : ⟨0x0000007f#32, encodeU 0#32 0#5 op, fun w => c (fieldRd w) (immU w)⟩ ∈ opcodeRows) (h : immUok imm = true) :
    decode (encodeU imm rd op) = .ok (c rd imm) := by
  have hsel := (masked_7f_iff (w := encodeU imm rd op) (opcodeRows_bits_masked _ hr)).2 (by simp only [fieldOp_encodeU])
  rw [decode_of_masked hr hsel, fieldRd_encodeU, immU_encodeU _ _ h]

theorem decode_encodeJ {c : Reg → Word → Instr}
    (hr : ⟨0x0000007f#32, encodeJ 0#32 0#5 op, fun w => c (fieldRd w) (immJ w)⟩ ∈ opcodeRows) (h : immJok imm = true) :
    decode (encodeJ imm rd op) = .ok (c rd imm) := by
  have hsel := (masked_7f_iff (w := encodeJ imm rd op) (opcodeRows_bits_masked _ hr)).2 (by simp only [fieldOp_encodeJ])
  rw [decode_of_masked hr hsel, fieldRd_encodeJ, immJ_encodeJ _ _ h]

theorem decode_encodeRaw {hi : BitVec 12} {read : Word → Instr}
    (hr : ⟨0x0000707f#32, encodeRaw 0#12 0#5 f3 0#5 op, read⟩ ∈ opcodeRows) :
    decode (encodeRaw hi rs1 f3 rd op) = .ok (read (encodeRaw hi rs1 f3 rd op)) :=
  decode_of_masked hr ((masked_707f_iff (opcodeRows_bits_masked _ hr)).2 (by simp))

theorem decode_encodeI {c : Reg → Reg → Word → Instr}
    (hr : ⟨0x0000707f#32, encodeRaw 0#12 0#5 f3 0#5 op, fun w => c (fieldRd w) (fieldRs1 w) (immI w)⟩ ∈ opcodeRows)
    (h : immISok imm = true) : decode (encodeI imm rs1 f3 rd op) = .ok (c rd rs1 imm) := by
  rw [encodeI, decode_encodeRaw hr, ← encodeI, immI_encodeI _ _ _ _ h, encodeI, fieldRd_encodeRaw, fieldRs1_encodeRaw]

theorem decode_encodeS {c : Reg → Reg → Word → Instr}
    (hr : ⟨0x0000707f#32, encodeRaw 0#12 0#5 f3 0#5 op, fun w => c (fieldRs1 w) (fieldRs2 w) (immS w)⟩ ∈ opcodeRows)
    (h : immISok imm = true) : decode (encodeS imm rs2 rs1 f3 op) = .ok (c rs1 rs2 imm) := by
  rw [encodeS_raw, decode_encodeRaw hr, ← encodeS_raw, immS_encodeS _ _ _ _ h, encodeS_raw, fieldRs1_encodeRaw,
    fieldRs2_encodeR]

theorem decode_encodeB {c : Reg → Reg → Word → Instr}
    (hr : ⟨0x0000707f#32, encodeRaw 0#12 0#5 f3 0#5 op, fun w => c (fieldRs1 w) (fieldRs2 w) (immB w)⟩ ∈ opcodeRows)
    (h : immBok imm = true) : decode (encodeB imm rs2 rs1 f3 op) = .ok (c rs1 rs2 imm) := by
  rw [encodeB_raw, decode_encodeRaw hr, ← encodeB_raw, immB_encodeB _ _ _ _ h, encodeB_raw, fieldRs1_encodeRaw,
    fieldRs2_encodeR]

theorem decode_encodeCsr {csr : CsrAddr} {c : Reg → BitVec 5 → CsrAddr → Instr}
    (hr : ⟨0x0000707f#32, encodeRaw 0#12 0#5 f3 0#5 op, fun w => c (fieldRd w) (fieldRs1 w) (fieldCsr w)⟩ ∈ opcodeRows) :
    decode (encodeRaw csr rs1 f3 rd op) = .ok (c rd rs1 csr) := by
  rw [decode_encodeRaw hr, fieldRd_encodeRaw, fieldRs1_encodeRaw, fieldCsr_encodeRaw]

theorem decode_encodeR {c : Reg → Reg → Reg → Instr}
    (hr : ⟨0xfe00707f#32, encodeR f7 0#5 0#5 f3 0#5 op, fun w => c (fieldRd w) (fieldRs1 w) (fieldRs2 w)⟩ ∈ opcodeRows) :
    decode (encodeR f7 rs2 rs1 f3 rd op) = .ok (c rd rs1 rs2) := by
  have hsel := (masked_fe00707f_iff (w := encodeR f7 rs2 rs1 f3 rd op) (opcodeRows_bits_masked _ hr)).2
    (by simp [encodeR_raw])
  rw [decode_of_masked hr hsel]
  simp [encodeR_raw]

theorem decode_encodeShift {shamt : BitVec 5} {b25 : Bool} {c : Reg → Reg → BitVec 5 → Bool → Instr}
    (hr : ⟨0xfc00707f#32, encodeShift f6 false 0#5 0#5 f3 0#5 op,
      fun w => c (fieldRd w) (fieldRs1 w) (fieldShamt w) (w.getLsbD 25)⟩ ∈ opcodeRows) :
    decode (encodeShift f6 b25 shamt rs1 f3 rd op) = .ok (c rd rs1 shamt b25) := by
  have hsel := (masked_fc00707f_iff (w := encodeShift f6 b25 shamt rs1 f3 rd op) (opcodeRows_bits_masked _ hr)).2
    (by simp [encodeShift_raw])
  rw [decode_of_masked hr hsel]
  simp only [encodeShift_raw, fieldRd_encodeRaw, fieldRs1_encodeRaw, fieldShamt_encodeShift, getLsbD_encodeShift]

theorem decode_encodeAmo {aq rl : Bool} {c : Reg → Reg → Reg → Bool → Bool → Instr}
    (hr : ⟨0xf800707f#32, encodeAmo f5 false false 0#5 0#5 f3 0#5 op,
      fun w => c (fieldRd w) (fieldRs1 w) (fieldRs2 w) (fieldAq w) (fieldRl w)⟩ ∈ opcodeRows) :
    decode (encodeAmo f5 aq rl rs2 rs1 f3 rd op) = .ok (c rd rs1 rs2 aq rl) := by
  have hsel := (masked_f800707f_iff (w := encodeAmo f5 aq rl rs2 rs1 f3 rd op) (opcodeRows_bits_masked _ hr)).2
    (by simp [encodeAmo_raw])
  rw [decode_of_masked hr hsel]
  simp [encodeAmo_raw]

theorem decode_encode_lrW (aq rl : Bool) : decode (encode (.lrW rd rs1 aq rl)) = .ok (.lrW rd rs1 aq rl) := by
  have hr := mem_table4 (.head _)
  have hsel := (masked_f9f0707f_iff (w := encode (.lrW rd rs1 aq rl)) (opcodeRows_bits_masked _ hr)).2
    ⟨fieldFunct5_encodeAmo _ _ _ _ _ _ _ _, fieldRs2_encodeAmo _ _ _ _ _ _ _ _, fieldFunct3_encodeRaw _ _ _ _ _,
      fieldOp_encodeRaw _ _ _ _ _⟩
  rw [decode_of_masked hr hsel]
  simp [encode, encodeAmo_raw]

theorem decode_encode_sfenceVma : decode (encode (.sfenceVma rs1 rs2)) = .ok (.sfenceVma rs1 rs2) := by
  have hr := mem_table7 (.head _)
  have hsel := (masked_fe007fff_iff (w := encode (.sfenceVma rs1 rs2)) (opcodeRows_bits_masked _ hr)).2
    ⟨fieldFunct7_encodeR _ _ _ _ _ _, fieldFunct3_encodeRaw _ _ _ _ _, fieldRd_encodeRaw _ _ _ _ _,
      fieldOp_encodeRaw _ _ _ _ _⟩
  rw [decode_of_masked hr hsel]
  simp [encode, encodeR_raw]

theorem decode_encode_fence (fm pred succ : BitVec 4) :
    decode (encode (.fence fm pred succ rs1 rd)) = .ok (.fence fm pred succ rs1 rd) := by
  have hr : ⟨0x0000707f#32, encodeRaw 0#12 0#5 0#3 0#5 0x0f#7, _⟩ ∈ opcodeRows := mem_table2System (.head _)
  rw [encode, decode_encodeRaw hr]
  simp

theorem decode_encode_fenceI (imm : BitVec 12) :
    decode (encode (.fenceI imm rs1 rd)) = .ok (.fenceI imm rs1 rd) :=
  decode_encodeCsr (c := fun rd rs1 imm => .fenceI imm rs1 rd) (mem_table2System (by simp [table2System, encodeRaw]))

end

/-- Settles O1: each constructor by its format's lemma, with the row of its table. -/
theorem decodeUndoesEncode : Obligations.DecodeUndoesEncode := by
  intro i h
  cases i with
  | lui rd imm | auipc rd imm => exact decode_encodeU (mem_table1 (by simp [table1, encodeU])) h
  | jal rd imm => exact decode_encodeJ (mem_table1 (by simp [table1, encodeJ])) h
  | jalr rd rs1 imm => exact decode_encodeI (mem_table2Control (by simp [table2Control, encodeRaw])) h
  | beq rs1 rs2 imm | bne rs1 rs2 imm | blt rs1 rs2 imm | bge rs1 rs2 imm | bltu rs1 rs2 imm | bgeu rs1 rs2 imm =>
    exact decode_encodeB (mem_table2Control (by simp [table2Control, encodeRaw])) h
  | lb rd rs1 imm | lh rd rs1 imm | lw rd rs1 imm | lbu rd rs1 imm | lhu rd rs1 imm =>
    exact decode_encodeI (mem_table2Memory (by simp [table2Memory, encodeRaw])) h
  | sb rs1 rs2 imm | sh rs1 rs2 imm | sw rs1 rs2 imm =>
    exact decode_encodeS (mem_table2Memory (by simp [table2Memory, encodeRaw])) h
  | addi rd rs1 imm | slti rd rs1 imm | sltiu rd rs1 imm | xori rd rs1 imm | ori rd rs1 imm | andi rd rs1 imm =>
    exact decode_encodeI (mem_table2OpImm (by simp [table2OpImm, encodeRaw])) h
  | slli rd rs1 shamt b25 | srli rd rs1 shamt b25 | srai rd rs1 shamt b25 =>
    exact decode_encodeShift (mem_table5 (by simp [table5, encodeShift]))
  | add rd rs1 rs2 | sub rd rs1 rs2 | sll rd rs1 rs2 | slt rd rs1 rs2 | sltu rd rs1 rs2 | xor rd rs1 rs2
  | srl rd rs1 rs2 | sra rd rs1 rs2 | or rd rs1 rs2 | and rd rs1 rs2
  | mul rd rs1 rs2 | mulh rd rs1 rs2 | mulhsu rd rs1 rs2 | mulhu rd rs1 rs2
  | div rd rs1 rs2 | divu rd rs1 rs2 | rem rd rs1 rs2 | remu rd rs1 rs2 =>
    exact decode_encodeR (mem_table6 (by simp [table6, encodeR]))
  | fence fm pred succ rs1 rd => exact decode_encode_fence fm pred succ
  | fenceI imm rs1 rd => exact decode_encode_fenceI imm
  | sfenceVma rs1 rs2 => exact decode_encode_sfenceVma
  | wfi | ecall | ebreak | mret | sret => decide
  | csrrw rd field csr | csrrs rd field csr | csrrc rd field csr
  | csrrwi rd field csr | csrrsi rd field csr | csrrci rd field csr =>
    exact decode_encodeCsr (mem_table2System (by simp [table2System, encodeRaw]))
  | lrW rd rs1 aq rl => exact decode_encode_lrW aq rl
  | scW rd rs1 rs2 aq rl | amoswapW rd rs1 rs2 aq rl | amoaddW rd rs1 rs2 aq rl | amoxorW rd rs1 rs2 aq rl
  | amoandW rd rs1 rs2 aq rl | amoorW rd rs1 rs2 aq rl | amominW rd rs1 rs2 aq rl | amomaxW rd rs1 rs2 aq rl
  | amominuW rd rs1 rs2 aq rl | amomaxuW rd rs1 rs2 aq rl =>
    exact decode_encodeAmo (mem_table3 (by simp [table3, encodeAmo]))

/-! ### Reading a row and writing it back, format by format -/

/-- The row reads a word it selects as a well-formed instruction that encodes to that word. -/
def Row.RoundTrips (r : Row) : Prop := ∀ w : Word, w &&& r.mask = r.bits → (r.read w).wf = true ∧ encode (r.read w) = w

/-- What a mask has left of a word has no bit outside the mask. -/
theorem bits_masked_of {w m b : Word} (h : w &&& m = b) : b &&& m = b := by rw [← h, BitVec.and_assoc, BitVec.and_self]

section
variable {b : Word}

theorem roundTrips_U {c : Reg → Word → Instr}
    (hc : ∀ rd imm, (c rd imm).wf = immUok imm ∧ encode (c rd imm) = encodeU imm rd (fieldOp b) := by
      exact fun _ _ => ⟨rfl, rfl⟩) :
    Row.RoundTrips ⟨0x0000007f#32, b, fun w => c (fieldRd w) (immU w)⟩ := by
  intro w h
  obtain ⟨hwf, henc⟩ := hc (fieldRd w) (immU w)
  have hop := (masked_7f_iff (bits_masked_of h)).1 h
  exact ⟨hwf.trans (immUok_iff.2 ⟨_, immU_eq w⟩), by rw [henc, ← hop, encodeU_fields]⟩

theorem roundTrips_J {c : Reg → Word → Instr}
    (hc : ∀ rd imm, (c rd imm).wf = immJok imm ∧ encode (c rd imm) = encodeJ imm rd (fieldOp b) := by
      exact fun _ _ => ⟨rfl, rfl⟩) :
    Row.RoundTrips ⟨0x0000007f#32, b, fun w => c (fieldRd w) (immJ w)⟩ := by
  intro w h
  obtain ⟨hwf, henc⟩ := hc (fieldRd w) (immJ w)
  have hop := (masked_7f_iff (bits_masked_of h)).1 h
  exact ⟨hwf.trans (immJok_iff.2 ⟨_, immJ_eq w⟩), by rw [henc, ← hop, encodeJ_fields]⟩

theorem roundTrips_I {c : Reg → Reg → Word → Instr}
    (hc : ∀ rd rs1 imm, (c rd rs1 imm).wf = immISok imm ∧
      encode (c rd rs1 imm) = encodeI imm rs1 (fieldFunct3 b) rd (fieldOp b) := by exact fun _ _ _ => ⟨rfl, rfl⟩) :
    Row.RoundTrips ⟨0x0000707f#32, b, fun w => c (fieldRd w) (fieldRs1 w) (immI w)⟩ := by
  intro w h
  obtain ⟨hwf, henc⟩ := hc (fieldRd w) (fieldRs1 w) (immI w)
  obtain ⟨h3, hop⟩ := (masked_707f_iff (bits_masked_of h)).1 h
  exact ⟨hwf.trans (immISok_iff.2 ⟨_, immI_eq w⟩), by rw [henc, ← h3, ← hop, encodeI_fields]⟩

theorem roundTrips_S {c : Reg → Reg → Word → Instr}
    (hc : ∀ rs1 rs2 imm, (c rs1 rs2 imm).wf = immISok imm ∧
      encode (c rs1 rs2 imm) = encodeS imm rs2 rs1 (fieldFunct3 b) (fieldOp b) := by exact fun _ _ _ => ⟨rfl, rfl⟩) :
    Row.RoundTrips ⟨0x0000707f#32, b, fun w => c (fieldRs1 w) (fieldRs2 w) (immS w)⟩ := by
  intro w h
  obtain ⟨hwf, henc⟩ := hc (fieldRs1 w) (fieldRs2 w) (immS w)
  obtain ⟨h3, hop⟩ := (masked_707f_iff (bits_masked_of h)).1 h
  exact ⟨hwf.trans (immISok_iff.2 ⟨_, immS_eq w⟩), by rw [henc, ← h3, ← hop, encodeS_fields]⟩

theorem roundTrips_B {c : Reg → Reg → Word → Instr}
    (hc : ∀ rs1 rs2 imm, (c rs1 rs2 imm).wf = immBok imm ∧
      encode (c rs1 rs2 imm) = encodeB imm rs2 rs1 (fieldFunct3 b) (fieldOp b) := by exact fun _ _ _ => ⟨rfl, rfl⟩) :
    Row.RoundTrips ⟨0x0000707f#32, b, fun w => c (fieldRs1 w) (fieldRs2 w) (immB w)⟩ := by
  intro w h
  obtain ⟨hwf, henc⟩ := hc (fieldRs1 w) (fieldRs2 w) (immB w)
  obtain ⟨h3, hop⟩ := (masked_707f_iff (bits_masked_of h)).1 h
  exact ⟨hwf.trans (immBok_iff.2 ⟨_, immB_eq w⟩), by rw [henc, ← h3, ← hop, encodeB_fields]⟩

theorem roundTrips_Csr {c : Reg → BitVec 5 → CsrAddr → Instr}
    (hc : ∀ rd rs1 csr, (c rd rs1 csr).wf = true ∧
      encode (c rd rs1 csr) = encodeRaw csr rs1 (fieldFunct3 b) rd (fieldOp b) := by exact fun _ _ _ => ⟨rfl, rfl⟩) :
    Row.RoundTrips ⟨0x0000707f#32, b, fun w => c (fieldRd w) (fieldRs1 w) (fieldCsr w)⟩ := by
  intro w h
  obtain ⟨hwf, henc⟩ := hc (fieldRd w) (fieldRs1 w) (fieldCsr w)
  obtain ⟨h3, hop⟩ := (masked_707f_iff (bits_masked_of h)).1 h
  exact ⟨hwf, by rw [henc, ← h3, ← hop, encodeRaw_fields]⟩

theorem roundTrips_R {c : Reg → Reg → Reg → Instr}
    (hc : ∀ rd rs1 rs2, (c rd rs1 rs2).wf = true ∧
      encode (c rd rs1 rs2) = encodeR (fieldFunct7 b) rs2 rs1 (fieldFunct3 b) rd (fieldOp b) := by
        exact fun _ _ _ => ⟨rfl, rfl⟩) :
    Row.RoundTrips ⟨0xfe00707f#32, b, fun w => c (fieldRd w) (fieldRs1 w) (fieldRs2 w)⟩ := by
  intro w h
  obtain ⟨hwf, henc⟩ := hc (fieldRd w) (fieldRs1 w) (fieldRs2 w)
  obtain ⟨h7, h3, hop⟩ := (masked_fe00707f_iff (bits_masked_of h)).1 h
  exact ⟨hwf, by rw [henc, ← h7, ← h3, ← hop, encodeR_fields]⟩

theorem roundTrips_Shift {c : Reg → Reg → BitVec 5 → Bool → Instr}
    (hc : ∀ rd rs1 shamt b25, (c rd rs1 shamt b25).wf = true ∧
      encode (c rd rs1 shamt b25) = encodeShift (fieldFunct6 b) b25 shamt rs1 (fieldFunct3 b) rd (fieldOp b) := by
        exact fun _ _ _ _ => ⟨rfl, rfl⟩) :
    Row.RoundTrips ⟨0xfc00707f#32, b, fun w => c (fieldRd w) (fieldRs1 w) (fieldShamt w) (w.getLsbD 25)⟩ := by
  intro w h
  obtain ⟨hwf, henc⟩ := hc (fieldRd w) (fieldRs1 w) (fieldShamt w) (w.getLsbD 25)
  obtain ⟨h6, h3, hop⟩ := (masked_fc00707f_iff (bits_masked_of h)).1 h
  exact ⟨hwf, by rw [henc, ← h6, ← h3, ← hop, encodeShift_fields]⟩

theorem roundTrips_Amo {c : Reg → Reg → Reg → Bool → Bool → Instr}
    (hc : ∀ rd rs1 rs2 aq rl, (c rd rs1 rs2 aq rl).wf = true ∧
      encode (c rd rs1 rs2 aq rl) = encodeAmo (fieldFunct5 b) aq rl rs2 rs1 (fieldFunct3 b) rd (fieldOp b) := by
        exact fun _ _ _ _ _ => ⟨rfl, rfl⟩) :
    Row.RoundTrips ⟨0xf800707f#32, b, fun w => c (fieldRd w) (fieldRs1 w) (fieldRs2 w) (fieldAq w) (fieldRl w)⟩ := by
  intro w h
  obtain ⟨hwf, henc⟩ := hc (fieldRd w) (fieldRs1 w) (fieldRs2 w) (fieldAq w) (fieldRl w)
  obtain ⟨h5, h3, hop⟩ := (masked_f800707f_iff (bits_masked_of h)).1 h
  exact ⟨hwf, by rw [henc, ← h5, ← h3, ← hop, encodeAmo_fields]⟩

end

theorem roundTrips_fence : Row.RoundTrips
    ⟨0x0000707f#32, 0x0000000f#32, fun w => .fence (fieldFm w) (fieldPred w) (fieldSucc w) (fieldRs1 w) (fieldRd w)⟩ := by
  intro w h
  obtain ⟨h3, hop⟩ := (masked_707f_iff (by decide)).1 h
  refine ⟨rfl, ?_⟩
  show encodeRaw _ (fieldRs1 w) (fieldFunct3 0x0000000f#32) (fieldRd w) (fieldOp 0x0000000f#32) = w
  rw [← h3, ← hop, ← fieldCsr_fence, encodeRaw_fields]

theorem roundTrips_lrW : Row.RoundTrips
    ⟨0xf9f0707f#32, 0x1000202f#32, fun w => .lrW (fieldRd w) (fieldRs1 w) (fieldAq w) (fieldRl w)⟩ := by
  intro w h
  obtain ⟨h5, h2, h3, hop⟩ := (masked_f9f0707f_iff (by decide)).1 h
  have hw := encodeAmo_fields w
  rw [h5, h2, h3, hop] at hw
  exact ⟨rfl, hw⟩

theorem roundTrips_sfenceVma : Row.RoundTrips
    ⟨0xfe007fff#32, 0x12000073#32, fun w => .sfenceVma (fieldRs1 w) (fieldRs2 w)⟩ := by
  intro w h
  obtain ⟨h7, h3, hrd, hop⟩ := (masked_fe007fff_iff (by decide)).1 h
  have hw := encodeR_fields w
  rw [h7, h3, hrd, hop] at hw
  exact ⟨rfl, hw⟩

/-- A row that fixes every bit reads its match value only. -/
theorem roundTrips_fixed {b : Word} {i : Instr} (hc : i.wf = true ∧ encode i = b := by exact ⟨rfl, rfl⟩) :
    Row.RoundTrips ⟨0xffffffff#32, b, fun _ => i⟩ := by
  intro w h
  have hw : w = b := (BitVec.and_allOnes (x := w)).symm.trans h
  exact hw ▸ hc

/-- The rows of every table read back what they encode, each by its format. -/
theorem opcodeRows_roundTrip : ∀ r ∈ opcodeRows, r.RoundTrips := by
  have h1 : ∀ r ∈ table1, r.RoundTrips := List.forall_iff_forall_mem.1 ⟨roundTrips_U, roundTrips_U, roundTrips_J⟩
  have hcontrol : ∀ r ∈ table2Control, r.RoundTrips := List.forall_iff_forall_mem.1
    ⟨roundTrips_B, roundTrips_I, roundTrips_B, roundTrips_B, roundTrips_B, roundTrips_B, roundTrips_B⟩
  have hmemory : ∀ r ∈ table2Memory, r.RoundTrips := List.forall_iff_forall_mem.1
    ⟨roundTrips_I, roundTrips_S, roundTrips_I, roundTrips_S, roundTrips_I, roundTrips_S, roundTrips_I, roundTrips_I⟩
  have hopImm : ∀ r ∈ table2OpImm, r.RoundTrips := by
    intro r hr
    fin_cases hr <;> exact roundTrips_I
  have hsystem : ∀ r ∈ table2System, r.RoundTrips := List.forall_iff_forall_mem.1
    ⟨roundTrips_fence, roundTrips_Csr (c := fun rd rs1 imm => .fenceI imm rs1 rd), roundTrips_Csr, roundTrips_Csr,
      roundTrips_Csr, roundTrips_Csr, roundTrips_Csr, roundTrips_Csr⟩
  have h3 : ∀ r ∈ table3, r.RoundTrips := by
    intro r hr
    fin_cases hr <;> exact roundTrips_Amo
  have h4 : ∀ r ∈ table4, r.RoundTrips := List.forall_iff_forall_mem.1 roundTrips_lrW
  have h5 : ∀ r ∈ table5, r.RoundTrips := by
    intro r hr
    fin_cases hr <;> exact roundTrips_Shift
  have h6 : ∀ r ∈ table6, r.RoundTrips := by
    intro r hr
    fin_cases hr <;> exact roundTrips_R
  have h7 : ∀ r ∈ table7, r.RoundTrips := List.forall_iff_forall_mem.1 roundTrips_sfenceVma
  have h8 : ∀ r ∈ table8, r.RoundTrips := by
    intro r hr
    fin_cases hr <;> exact roundTrips_fixed
  simp only [opcodeRows, List.forall_mem_append]
  exact ⟨⟨⟨⟨⟨⟨⟨h1, ⟨⟨hcontrol, hmemory⟩, hopImm⟩, hsystem⟩, h3⟩, h4⟩, h5⟩, h6⟩, h7⟩, h8⟩

/-- Settles O2: what decodes is read by a row, and every row round-trips. -/
theorem encodeUndoesDecode : Obligations.EncodeUndoesDecode := by
  intro w i h
  obtain ⟨r, hr, hsel, hdec⟩ | ⟨-, herr⟩ := decode_cases w
  · obtain rfl : r.read w = i := Except.ok.inj (hdec.symm.trans h)
    exact opcodeRows_roundTrip r hr w (by simpa [Row.selects] using hsel)
  · rw [herr] at h
    cases h

/-- Settles O3: each clause is the reading of a row of the table, in the table's order. -/
theorem opcodeTableDecodes : Obligations.OpcodeTableDecodes := by
  intro w
  have hrows : opcodeRows.Forall (fun r => w &&& r.mask = r.bits → decode w = .ok (r.read w)) :=
    List.forall_iff_forall_mem.2 fun r hr h => decode_of_masked hr h
  exact hrows

theorem toInt_even_sext {n : Nat} (x : BitVec n) (hn : n + 1 ≤ 32) : ((x ++ 0#1).signExtend 32).toInt = 2 * x.toInt := by
  rw [BitVec.toInt_signExtend_of_le hn, BitVec.toInt_append_zero, pow_one]

/-- Settles O4: a sign extension keeps the number, and a zero bit below doubles it. -/
theorem immediatesAreFieldNumbers : Obligations.ImmediatesAreFieldNumbers := by
  intro w
  have hI : (immI w).toInt = (fieldCsr w).toInt := BitVec.toInt_signExtend_of_le (by omega)
  have hS : (immS w).toInt = (fieldFunct7 w ++ fieldRd w : BitVec 12).toInt := BitVec.toInt_signExtend_of_le (by omega)
  have hB : (immB w).toInt = 2 * (bitsB w).toInt := toInt_even_sext (bitsB w) (by omega)
  have hJ : (immJ w).toInt = 2 * (bitsJ w).toInt := toInt_even_sext (bitsJ w) (by omega)
  have hU : (immU w).toNat = 4096 * (w.extractLsb' 12 20).toNat := by
    rw [immU_eq, toNat_append_eq, BitVec.toNat_ofNat, Nat.mul_comm]; rfl
  have h12 (x : BitVec 12) : -2048 ≤ x.toInt ∧ x.toInt ≤ 2047 := ⟨x.le_toInt, BitVec.toInt_le⟩
  have h20 (x : BitVec 20) : -524288 ≤ x.toInt ∧ x.toInt ≤ 524287 := ⟨x.le_toInt, BitVec.toInt_le⟩
  have rB := h12 (bitsB w)
  have rJ := h20 (bitsJ w)
  exact ⟨hI, hS, hB, hU, hJ, hI ▸ h12 _, hS ▸ h12 _, by omega, by omega⟩

/-- Settles O6: each word is decoded by running the tables. -/
theorem sampleWordsDecode : Obligations.SampleWordsDecode := by
  unfold Obligations.SampleWordsDecode
  decide

end Sys2Proof

/-!
Which words the decoder refuses (30_encoding.md R145, R148): one lemma per opcode, on the rows that have it.
-/
namespace Sys2Proof

/-! ### The words the decoder refuses, opcode by opcode (R148) -/

theorem selects_eq_false_iff {r : Row} {w : Word} : r.selects w = false ↔ w &&& r.mask ≠ r.bits := by
  simp [Row.selects]

/-- The decoder refuses a word when no row selects it, and only then (R146). -/
theorem decode_refused_iff (w : Word) :
    decode w = .error (.noTableRow w) ↔ ∀ r ∈ opcodeRows, r.selects w = false := by
  obtain ⟨r, hr, hsel, hdec⟩ | ⟨hnone, herr⟩ := decode_cases w
  · rw [hdec]
    exact iff_of_false (by simp) fun h => by simp [h r hr] at hsel
  · exact iff_of_true herr hnone

/-- Every mask covers the opcode, so a selected row has the word's opcode. -/
theorem fieldOp_of_masked {r : Row} (hr : r ∈ opcodeRows) {w : Word} (h : w &&& r.mask = r.bits) :
    fieldOp w = fieldOp r.bits := by
  have hmask : ∀ r ∈ opcodeRows, r.mask.extractLsb' 0 7 = BitVec.allOnes 7 := by decide
  rw [← h, fieldOp, fieldOp, BitVec.extractLsb'_and, hmask r hr, BitVec.and_allOnes]

/-- The rows of a table that have an opcode. -/
def rowsOf (op : BitVec 7) (rows : List Row) : List Row := rows.filter fun r => fieldOp r.bits == op

section
variable {w : Word}

/-- A word is refused when no row of its opcode selects it; `rows` are tables that hold all rows of the opcode. -/
theorem decode_refused_iff_rowsOf {op : BitVec 7} (rows : List Row) (hop : fieldOp w = op)
    (hrows : rowsOf op opcodeRows = rowsOf op rows) :
    decode w = .error (.noTableRow w) ↔ ∀ r ∈ rowsOf op rows, w &&& r.mask ≠ r.bits := by
  rw [decode_refused_iff, ← hrows]
  constructor
  · exact fun h r hr => selects_eq_false_iff.1 (h r (List.mem_filter.1 hr).1)
  · refine fun h r hr => selects_eq_false_iff.2 fun hsel => ?_
    exact h r (List.mem_filter.2 ⟨hr, by simp [← fieldOp_of_masked hr hsel, hop]⟩) hsel

theorem funct3_cases (f3 : BitVec 3) :
    f3 = 0#3 ∨ f3 = 1#3 ∨ f3 = 2#3 ∨ f3 = 3#3 ∨ f3 = 4#3 ∨ f3 = 5#3 ∨ f3 = 6#3 ∨ f3 = 7#3 := by
  revert f3; decide

/-- The opcodes of the table (R147). -/
abbrev opcodes : List (BitVec 7) :=
  [0x37#7, 0x17#7, 0x6F#7, 0x67#7, 0x63#7, 0x03#7, 0x23#7, 0x13#7, 0x33#7, 0x0F#7, 0x2F#7, 0x73#7]

theorem refused_of_not_mem_opcodes (hop : fieldOp w ∉ opcodes) : decode w = .error (.noTableRow w) := by
  have hops : ∀ r ∈ opcodeRows, fieldOp r.bits ∈ opcodes := by decide
  refine (decode_refused_iff w).2 fun r hr => selects_eq_false_iff.2 fun hsel => hop ?_
  rw [fieldOp_of_masked hr hsel]
  exact hops r hr

theorem not_refused_table1 (hop : fieldOp w = 0x37#7 ∨ fieldOp w = 0x17#7 ∨ fieldOp w = 0x6F#7) :
    decode w ≠ .error (.noTableRow w) := by
  obtain hop | hop | hop := hop
  · simp [decode_of_masked (mem_table1 (.tail _ (.head _))) ((masked_7f_iff rfl).2 hop)]
  · simp [decode_of_masked (mem_table1 (.head _)) ((masked_7f_iff rfl).2 hop)]
  · simp [decode_of_masked (mem_table1 (.tail _ (.tail _ (.head _)))) ((masked_7f_iff rfl).2 hop)]

theorem refused_jalr_iff (hop : fieldOp w = 0x67#7) : decode w = .error (.noTableRow w) ↔ fieldFunct3 w ≠ 0#3 := by
  rw [decode_refused_iff_rowsOf table2Control hop rfl]
  simp [rowsOf, table2Control, masked_707f_iff, hop, fieldFunct3, fieldOp]

theorem refused_branch_iff (hop : fieldOp w = 0x63#7) :
    decode w = .error (.noTableRow w) ↔ fieldFunct3 w ∈ [2#3, 3#3] := by
  have hlegal : (∀ r ∈ rowsOf 0x63#7 table2Control, w &&& r.mask ≠ r.bits) ↔
      fieldFunct3 w ∉ [0#3, 1#3, 4#3, 5#3, 6#3, 7#3] := by
    simp [rowsOf, table2Control, masked_707f_iff, hop, fieldFunct3, fieldOp]
  rw [decode_refused_iff_rowsOf table2Control hop rfl, hlegal]
  exact (by decide : ∀ f3 : BitVec 3, f3 ∉ [0#3, 1#3, 4#3, 5#3, 6#3, 7#3] ↔ f3 ∈ [2#3, 3#3]) _

theorem refused_load_iff (hop : fieldOp w = 0x03#7) :
    decode w = .error (.noTableRow w) ↔ fieldFunct3 w ∈ [3#3, 6#3, 7#3] := by
  have hlegal : (∀ r ∈ rowsOf 0x03#7 table2Memory, w &&& r.mask ≠ r.bits) ↔
      fieldFunct3 w ∉ [0#3, 1#3, 2#3, 4#3, 5#3] := by
    simp [rowsOf, table2Memory, masked_707f_iff, hop, fieldFunct3, fieldOp]
  rw [decode_refused_iff_rowsOf table2Memory hop rfl, hlegal]
  exact (by decide : ∀ f3 : BitVec 3, f3 ∉ [0#3, 1#3, 2#3, 4#3, 5#3] ↔ f3 ∈ [3#3, 6#3, 7#3]) _

theorem refused_store_iff (hop : fieldOp w = 0x23#7) :
    decode w = .error (.noTableRow w) ↔ fieldFunct3 w ∈ [3#3, 4#3, 5#3, 6#3, 7#3] := by
  have hlegal : (∀ r ∈ rowsOf 0x23#7 table2Memory, w &&& r.mask ≠ r.bits) ↔ fieldFunct3 w ∉ [0#3, 1#3, 2#3] := by
    simp [rowsOf, table2Memory, masked_707f_iff, hop, fieldFunct3, fieldOp]
  rw [decode_refused_iff_rowsOf table2Memory hop rfl, hlegal]
  exact (by decide : ∀ f3 : BitVec 3, f3 ∉ [0#3, 1#3, 2#3] ↔ f3 ∈ [3#3, 4#3, 5#3, 6#3, 7#3]) _

theorem refused_fence_iff (hop : fieldOp w = 0x0F#7) :
    decode w = .error (.noTableRow w) ↔ fieldFunct3 w ≠ 0#3 ∧ fieldFunct3 w ≠ 1#3 := by
  rw [decode_refused_iff_rowsOf table2System hop rfl]
  simp [rowsOf, table2System, masked_707f_iff, hop, fieldFunct3, fieldOp]

theorem refused_opImm_iff (hop : fieldOp w = 0x13#7) : decode w = .error (.noTableRow w) ↔
    (fieldFunct3 w = 1#3 ∧ fieldFunct6 w ≠ 0#6) ∨
      (fieldFunct3 w = 5#3 ∧ fieldFunct6 w ≠ 0#6 ∧ fieldFunct6 w ≠ 0x10#6) := by
  have hlegal : (∀ r ∈ rowsOf 0x13#7 (table2OpImm ++ table5), w &&& r.mask ≠ r.bits) ↔
      fieldFunct3 w ∉ [0#3, 2#3, 3#3, 4#3, 6#3, 7#3] ∧ ¬ (fieldFunct6 w = 0#6 ∧ fieldFunct3 w = 1#3) ∧
        ¬ (fieldFunct6 w = 0#6 ∧ fieldFunct3 w = 5#3) ∧ ¬ (fieldFunct6 w = 0x10#6 ∧ fieldFunct3 w = 5#3) := by
    simp [rowsOf, table2OpImm, table5, masked_707f_iff, masked_fc00707f_iff, hop, fieldFunct3, fieldFunct6, fieldOp,
      and_assoc]
  rw [decode_refused_iff_rowsOf (table2OpImm ++ table5) hop rfl, hlegal]
  generalize fieldFunct3 w = f3
  revert f3
  generalize fieldFunct6 w = f6
  revert f6
  decide

theorem refused_op_iff (hop : fieldOp w = 0x33#7) : decode w = .error (.noTableRow w) ↔
    fieldFunct7 w ≠ 0#7 ∧ fieldFunct7 w ≠ 1#7 ∧
      ¬ (fieldFunct7 w = 0x20#7 ∧ (fieldFunct3 w = 0#3 ∨ fieldFunct3 w = 5#3)) := by
  have hrows : rowsOf 0x33#7 table6 = table6 := rfl
  rw [decode_refused_iff_rowsOf table6 hop rfl, hrows]
  rcases funct3_cases (fieldFunct3 w) with h | h | h | h | h | h | h | h <;>
    simp [table6, masked_fe00707f_iff, hop, h, fieldFunct3, fieldFunct7, fieldOp]

/-- The funct5 of every atomic but LR.W, in table 3's order. -/
def funct5sTable3 : List (BitVec 5) := [0#5, 1#5, 3#5, 4#5, 8#5, 12#5, 16#5, 20#5, 24#5, 28#5]

theorem refused_amo_iff (hop : fieldOp w = 0x2F#7) : decode w = .error (.noTableRow w) ↔
    fieldFunct3 w ≠ 2#3 ∨ fieldFunct5 w ∉ [2#5, 3#5, 1#5, 0#5, 4#5, 12#5, 8#5, 16#5, 20#5, 24#5, 28#5] ∨
      (fieldFunct5 w = 2#5 ∧ fieldRs2 w ≠ 0#5) := by
  have hlegal : (∀ r ∈ rowsOf 0x2F#7 (table3 ++ table4), w &&& r.mask ≠ r.bits) ↔
      (fieldFunct3 w = 2#3 → fieldFunct5 w ∉ funct5sTable3 ∧ (fieldFunct5 w = 2#5 → fieldRs2 w ≠ 0#5)) := by
    by_cases h3 : fieldFunct3 w = 2#3 <;>
      simp [rowsOf, table3, table4, masked_f800707f_iff, masked_f9f0707f_iff, hop, h3, fieldFunct3, fieldFunct5, fieldRs2,
        fieldOp, funct5sTable3, and_assoc]
  have hlist : fieldFunct5 w ∈ [2#5, 3#5, 1#5, 0#5, 4#5, 12#5, 8#5, 16#5, 20#5, 24#5, 28#5] ↔
      fieldFunct5 w = 2#5 ∨ fieldFunct5 w ∈ funct5sTable3 := by
    generalize fieldFunct5 w = f5
    revert f5
    decide
  rw [decode_refused_iff_rowsOf (table3 ++ table4) hop rfl, hlegal, imp_iff_not_or, hlist]
  refine or_congr_right ?_
  by_cases h5 : fieldFunct5 w = 2#5
  · have h2 : (2#5 : BitVec 5) ∉ funct5sTable3 := by decide
    simp [h5, h2]
  · simp [h5]

/-- The words of table 8, which fixes every bit. -/
def fixedWords : List Word := [0x00000073#32, 0x00100073#32, 0x10200073#32, 0x10500073#32, 0x30200073#32]

theorem masked_ffffffff (w : Word) : w &&& 0xffffffff#32 = w := BitVec.and_allOnes

theorem refused_system_iff (hop : fieldOp w = 0x73#7) : decode w = .error (.noTableRow w) ↔
    fieldFunct3 w = 4#3 ∨ (fieldFunct3 w = 0#3 ∧ ¬ (fieldFunct7 w = 9#7 ∧ fieldRd w = 0#5) ∧
      w ∉ [0x00000073#32, 0x00100073#32, 0x10200073#32, 0x30200073#32, 0x10500073#32]) := by
  have hlist : w ∈ [0x00000073#32, 0x00100073#32, 0x10200073#32, 0x30200073#32, 0x10500073#32] ↔
      w ∈ fixedWords := by
    simp [fixedWords, or_comm (a := w = 0x30200073#32)]
  have hlegal : (∀ r ∈ rowsOf 0x73#7 (table2System ++ table7 ++ table8), w &&& r.mask ≠ r.bits) ↔
      fieldFunct3 w ∉ [1#3, 2#3, 3#3, 5#3, 6#3, 7#3] ∧
        (fieldFunct7 w = 9#7 → fieldFunct3 w = 0#3 → fieldRd w ≠ 0#5) ∧ w ∉ fixedWords := by
    simp [rowsOf, table2System, table7, table8, masked_707f_iff, masked_fe007fff_iff, masked_ffffffff, hop, fieldFunct3,
      fieldFunct7, fieldRd, fieldOp, fixedWords, and_assoc]
  have hfixed : fieldFunct3 w = 4#3 → w ∉ fixedWords := by
    have hall : ∀ v ∈ fixedWords, fieldFunct3 v ≠ 4#3 := by simp [fixedWords, fieldFunct3]
    exact fun h hw => hall w hw h
  rw [decode_refused_iff_rowsOf (table2System ++ table7 ++ table8) hop rfl, hlegal, hlist]
  rcases funct3_cases (fieldFunct3 w) with h | h | h | h | h | h | h | h <;> simp [h, hfixed]

end

/-- Settles O5: the decoder's answer opcode by opcode. -/
theorem illegalWordsExactly : Obligations.IllegalWordsExactly := by
  intro w op f3 f5 f6 f7
  by_cases hmem : op ∈ opcodes
  · have hcases := hmem
    simp only [List.mem_cons, List.not_mem_nil, or_false] at hcases
    rcases hcases with hop | hop | hop | hop | hop | hop | hop | hop | hop | hop | hop | hop
    · simp [not_refused_table1 (.inl hop), hop]
    · simp [not_refused_table1 (.inr (.inl hop)), hop]
    · simp [not_refused_table1 (.inr (.inr hop)), hop]
    · simp [refused_jalr_iff hop, hop, f3]
    · simp [refused_branch_iff hop, hop, f3]
    · simp [refused_load_iff hop, hop, f3]
    · simp [refused_store_iff hop, hop, f3]
    · simp [refused_opImm_iff hop, hop, f3, f6]
    · simp [refused_op_iff hop, hop, f3, f7]
    · simp [refused_fence_iff hop, hop, f3]
    · simp [refused_amo_iff hop, hop, f3, f5, fieldRs2]
    · simp [refused_system_iff hop, hop, f3, f7, fieldRd]
  · exact iff_of_true (refused_of_not_mem_opcodes hmem) (.inl hmem)

end Sys2Proof

/-!
A refused word in the tick that fetched it (30_encoding.md R146): how an exception enters its mode, and the fetch.
-/
namespace Sys2Proof.Machine

/-! ### Taking an exception -/

section
variable {s t : State} {pos : Nat} {cause tval epc : Word}

/-- The model's own mark `raised` is no part of an entry (log 8). -/
theorem EntersM.withRaised (h : EntersM s t pos cause tval epc) (b : Bool) :
    EntersM s { t with raised := b } pos cause tval epc :=
  { h with rest := congrArg (fun u : State => { u with raised := b }) h.rest }

theorem EntersS.withRaised (h : EntersS s t pos cause tval epc) (b : Bool) :
    EntersS s { t with raised := b } pos cause tval epc :=
  { h with rest := congrArg (fun u : State => { u with raised := b }) h.rest }

end

section
variable {s : State} {e : Exc} (h : Sparse.wf 0#32 s.csrs = true) (tval : Word)
include h

/-- An exception that is not delegated enters M (60_exceptions.md R411, R415, R416, R418). -/
theorem takeException_entersM (hM : GoesToM s e.code) : ∃ t, takeException e tval s = .next t ∧ t.raised = true ∧
    EntersM s t e.code (BitVec.ofNat 32 e.code) tval s.pc := by
  have ht := (trapTarget_m_iff s e.code).2 hM
  refine ⟨{ deliver .m e.code (BitVec.ofNat 32 e.code) tval s.pc s with raised := true }, ?_, rfl, ?_⟩
  · simp only [takeException, ht]
  · exact (deliver_entersM h _ _ _ _).withRaised true

/-- A delegated exception that is not demoted to U enters S (60_exceptions.md R411, R415, R416, R418). -/
theorem takeException_entersS (hdel : Delegated s e.code) (hdem : ¬ Demoted s e.code) :
    ∃ t, takeException e tval s = .next t ∧ t.raised = true ∧
      EntersS s t e.code (BitVec.ofNat 32 e.code) tval s.pc := by
  have ht := (trapTarget_s_iff s e.code).2 ⟨hdel, hdem⟩
  refine ⟨{ deliver .s e.code (BitVec.ofNat 32 e.code) tval s.pc s with raised := true }, ?_, rfl, ?_⟩
  · simp only [takeException, ht]
  · exact (deliver_entersS h _ _ _ _).withRaised true

end

/-! ### Fetching -/

@[simp] theorem beginTick_pc (s : State) : (beginTick s).pc = s.pc := by rw [beginTick_eq]

/-- The fetch of a word that the decoder refuses (30_encoding.md R146). -/
theorem fetch_refused {s : State} {pa : Word} {e : DecodeError} (hpc : s.pc.extractLsb' 0 2 = 0#2)
    (ht : (translate s.pc .fetch s).1 = some pa)
    (hdec : decode (busRead 4 pa (translate s.pc .fetch s).2).1 = .error e) :
    fetch s = (.trap .illegalInstruction (busRead 4 pa (translate s.pc .fetch s).2).1,
      (busRead 4 pa (translate s.pc .fetch s).2).2) := by
  obtain ⟨s1, hs1⟩ : ∃ s1, translate s.pc .fetch s = (some pa, s1) := ⟨_, Prod.ext ht rfl⟩
  rw [hs1] at hdec ⊢
  simp only [fetch, hpc, ne_eq, not_true_eq_false, if_false, hs1, hdec]

/-- Settles O53: the fetch hands the refused word to the trap, whose entry `takeException_entersM` and
`takeException_entersS` state. -/
theorem illegalWordTraps : Obligations.IllegalWordTraps := by
  intro s pa hrun b f w s2 hwf hpc ht
  have hwf2 : Sparse.wf 0#32 s2.csrs = true := by simpa [s2, f] using hwf
  have hpc2 : s2.pc = s.pc := by simp [s2, f, b]
  refine ⟨fun ⟨r, hr, hsel⟩ => ⟨_, decode_of_row hr hsel⟩, fun hnone => ⟨?_, fun hM => ?_, fun hdel hdem => ?_⟩⟩
  · rw [step_running hrun, fetch_refused hpc ht ((decode_refused_iff w).2 hnone)]
    rfl
  · obtain ⟨t, htake, -, henters⟩ := takeException_entersM (e := .illegalInstruction) hwf2 w hM
    exact ⟨t, htake, hpc2 ▸ henters⟩
  · obtain ⟨t, htake, -, henters⟩ := takeException_entersS (e := .illegalInstruction) hwf2 w hdel hdem
    exact ⟨t, htake, hpc2 ▸ henters⟩

end Sys2Proof.Machine

/-!
Integer computation (40_alu.md): every instruction of the family is `retire` of one word (`writes_of_retire`), so each
claim is about that word. First the words, as numbers; then the claims.
-/
namespace Sys2Proof.Machine

/-- An instruction whose whole effect is to retire a word writes it and changes nothing else (40_alu.md R200). -/
theorem writes_of_retire {i : Instr} {rd : Reg} {v : Word} {s : State} (hi : exec i s = retire rd v s) :
    Writes i s rd v := by
  rw [Writes, hi]
  exact retire_retiresTo rd v s

/-- Two instructions that retire the same word to the same register do the same. -/
theorem exec_eq_of_retire {i j : Instr} {rd : Reg} {v w : Word} {s : State} (hi : exec i s = retire rd v s)
    (hj : exec j s = retire rd w s) (h : v = w) : exec i s = exec j s := by
  rw [hi, hj, h]

/-! ### Comparisons -/

theorem boolWord_slt (a b : Word) : boolWord (a.slt b) = if a.toInt < b.toInt then 1#32 else 0#32 := by
  simp [boolWord, BitVec.slt_eq_decide]

theorem boolWord_ult (a b : Word) : boolWord (a.ult b) = if a.toNat < b.toNat then 1#32 else 0#32 := by
  simp [boolWord, BitVec.ult_eq_decide]

/-- Flipping the sign bit moves a signed number up by 2^31. -/
theorem toNat_flipSign (a : Word) : ((a ^^^ 0x80000000#32).toNat : Int) = a.toInt + 2147483648 := by
  have hlow : (a ^^^ 0x80000000#32).toNat % 2 ^ 31 = a.toNat % 2 ^ 31 := by
    rw [BitVec.toNat_xor, Nat.xor_mod_two_pow]
    exact Nat.xor_zero _
  have htop : (a ^^^ 0x80000000#32).toNat / 2 ^ 31 = a.toNat / 2 ^ 31 ^^^ 1 := by
    rw [BitVec.toNat_xor, Nat.xor_div_two_pow]
    rfl
  have hbit : a.toNat / 2 ^ 31 ^^^ 1 = 1 - a.toNat / 2 ^ 31 := by
    have hcases : a.toNat / 2 ^ 31 = 0 ∨ a.toNat / 2 ^ 31 = 1 := by omega
    rcases hcases with h | h <;> rw [h] <;> rfl
  have hsigned : a.toInt = if 2 * a.toNat < 4294967296 then (a.toNat : Int) else a.toNat - 4294967296 :=
    BitVec.toInt_eq_toNat_cond a
  rw [hbit] at htop
  split at hsigned <;> omega

/-- Signed comparison is unsigned comparison with the sign bits flipped (40_alu.md R222). -/
theorem ult_flipSign (a b : Word) : (a ^^^ 0x80000000#32).ult (b ^^^ 0x80000000#32) = a.slt b := by
  have ha := toNat_flipSign a
  have hb := toNat_flipSign b
  rw [BitVec.ult_eq_decide, BitVec.slt_eq_decide, decide_eq_decide]
  omega

/-! ### Shifts -/

theorem shiftAmount_eq_mod (v : Word) : shiftAmount v = v.toNat % 32 := by
  rw [shiftAmount, BitVec.toNat_and]
  exact Nat.and_two_pow_sub_one_eq_mod v.toNat 5

/-- The source's formula is the library's arithmetic shift (40_alu.md R211). -/
theorem shiftRightArith_eq_sshiftRight (v : Word) (n : Nat) : shiftRightArith v n = v.sshiftRight n := by
  rw [shiftRightArith]
  have hmsb : v.msb = v.getLsbD 31 := BitVec.msb_eq_getLsbD_last v
  cases h : v.getLsbD 31 with
  | false => rw [BitVec.sshiftRight_eq_of_msb_false (hmsb.trans h)]; rfl
  | true => rw [BitVec.sshiftRight_eq_of_msb_true (hmsb.trans h)]; rfl

theorem toNat_shiftLeft_eq_mul (v : Word) (n : Nat) : (v <<< n).toNat = v.toNat * 2 ^ n % 4294967296 := by
  rw [BitVec.toNat_shiftLeft, Nat.shiftLeft_eq]

theorem toNat_ushiftRight_eq_div (v : Word) (n : Nat) : (v >>> n).toNat = v.toNat / 2 ^ n := by
  rw [BitVec.toNat_ushiftRight, Nat.shiftRight_eq_div_pow]

theorem toInt_shiftRightArith (v : Word) (n : Nat) : (shiftRightArith v n).toInt = v.toInt / 2 ^ n := by
  rw [shiftRightArith_eq_sshiftRight, BitVec.toInt_sshiftRight, Int.shiftRight_eq_div_pow]
  norm_cast

@[simp] theorem shiftRightArith_zero (v : Word) : shiftRightArith v 0 = v := by
  rw [shiftRightArith_eq_sshiftRight, BitVec.sshiftRight_zero]

/-- The arithmetic shift of a non-negative number is the logical one (40_alu.md R222). -/
theorem shiftRightArith_of_nonneg {v : Word} (h : v.getLsbD 31 = false) (n : Nat) : shiftRightArith v n = v >>> n := by
  rw [shiftRightArith, h, if_neg Bool.false_ne_true]

/-- A signed word divided by 2^31, rounding down, is 0 or -1. -/
theorem shiftRightArith_31_eq_zero_or_allOnes (v : Word) :
    shiftRightArith v 31 = 0#32 ∨ shiftRightArith v 31 = 0xFFFFFFFF#32 := by
  have hdiv := toInt_shiftRightArith v 31
  have hlo : -2147483648 ≤ v.toInt := v.le_toInt
  have hhi : v.toInt < 2147483648 := v.toInt_lt
  have hcases : v.toInt / 2 ^ 31 = 0 ∨ v.toInt / 2 ^ 31 = -1 := by omega
  exact hcases.imp (fun h => BitVec.eq_of_toInt_eq (hdiv.trans h)) (fun h => BitVec.eq_of_toInt_eq (hdiv.trans h))

/-! ### The shifts by a register -/

theorem sll_writes (rd a b : Reg) (s : State) : Writes (.sll rd a b) s rd (s.reg a <<< shiftAmount (s.reg b)) :=
  writes_of_retire rfl

theorem srl_writes (rd a b : Reg) (s : State) : Writes (.srl rd a b) s rd (s.reg a >>> shiftAmount (s.reg b)) :=
  writes_of_retire rfl

theorem sra_writes (rd a b : Reg) (s : State) :
    Writes (.sra rd a b) s rd (shiftRightArith (s.reg a) (shiftAmount (s.reg b))) :=
  writes_of_retire rfl

/-! ### Building a constant -/

/-- LUI's rounded high part and ADDI's sign-extended low twelve bits add up to the constant (30_encoding.md R151). -/
theorem immU_add_sext (v : Word) : immU (v + 0x800#32) + (v.extractLsb' 0 12).signExtend 32 = v := by
  have hhigh : (immU (v + 0x800#32)).toNat = (v.toNat + 2048) % 4294967296 / 4096 * 4096 := by
    rw [immU_eq, toNat_append_eq, BitVec.extractLsb'_toNat, BitVec.toNat_add, Nat.shiftRight_eq_div_pow]
    simp only [BitVec.toNat_ofNat]
    omega
  have hlow : ((v.extractLsb' 0 12).signExtend 32).toNat =
      v.toNat % 4096 + if 2048 ≤ v.toNat % 4096 then 4294963200 else 0 := by
    have hfit : v.toNat % 4096 < 4294967296 := by omega
    simp [BitVec.toNat_signExtend, BitVec.msb_eq_decide, hfit]
  apply BitVec.eq_of_toNat_eq
  rw [BitVec.toNat_add, hhigh, hlow]
  split <;> omega

/-- LUI then ADDI load any constant into rd, 8 bytes on (40_alu.md R222, 30_encoding.md R151). -/
theorem lui_addi_load {rd : Reg} (hrd : rd ≠ 0#5) (v : Word) (s : State) :
    ∃ t u, exec (.lui rd (immU (v + 0x800#32))) s = .next t ∧
      exec (.addi rd rd ((v.extractLsb' 0 12).signExtend 32)) t = .next u ∧ u.reg rd = v ∧ u.pc = s.pc + 8#32 := by
  refine ⟨_, _, rfl, rfl, ?_, ?_⟩
  · simp [State.reg_setReg, hrd, immU_add_sext]
  · simp [BitVec.add_assoc]

/-! ### The claims -/

/-- Settles O8: both retire their word. -/
theorem upperImmediateResults : Obligations.UpperImmediateResults :=
  fun _ _ _ => ⟨writes_of_retire rfl, writes_of_retire rfl⟩

/-- Settles O9: each retires its word, the comparisons by `boolWord_slt` and `boolWord_ult`. -/
theorem aluImmediateResults : Obligations.AluImmediateResults := by
  intro rd rs1 imm s
  rw [← boolWord_slt, ← boolWord_ult]
  exact ⟨writes_of_retire rfl, writes_of_retire rfl, writes_of_retire rfl, writes_of_retire rfl, writes_of_retire rfl,
    writes_of_retire rfl⟩

/-- Settles O10: each retires its word, the comparisons by `boolWord_slt` and `boolWord_ult`. -/
theorem aluRegisterResults : Obligations.AluRegisterResults := by
  intro rd rs1 rs2 s
  rw [← boolWord_slt, ← boolWord_ult]
  exact ⟨writes_of_retire rfl, writes_of_retire rfl, writes_of_retire rfl, writes_of_retire rfl, writes_of_retire rfl,
    writes_of_retire rfl, writes_of_retire rfl⟩

/-- Settles O11: each retires its shifted word, whose number is that of the shift's lemma. -/
theorem shiftResults : Obligations.ShiftResults := by
  intro rd rs1 rs2 sh b s
  rw [← shiftAmount_eq_mod]
  exact ⟨⟨_, writes_of_retire rfl, toNat_shiftLeft_eq_mul _ _⟩, ⟨_, writes_of_retire rfl, toNat_ushiftRight_eq_div _ _⟩,
    ⟨_, writes_of_retire rfl, toInt_shiftRightArith _ _⟩,
    ⟨_, sll_writes rd rs1 rs2 s, toNat_shiftLeft_eq_mul _ _⟩, ⟨_, srl_writes rd rs1 rs2 s, toNat_ushiftRight_eq_div _ _⟩,
    ⟨_, sra_writes rd rs1 rs2 s, toInt_shiftRightArith _ _⟩⟩

/-- Settles O12: each law is one between the retired words. -/
theorem aluLaws : Obligations.AluLaws := by
  refine ⟨fun rd a b c s => ⟨fun hneg => ?sub, exec_eq_of_retire rfl rfl (BitVec.add_comm _ _),
    exec_eq_of_retire rfl rfl (BitVec.xor_comm _ _), exec_eq_of_retire rfl rfl (BitVec.or_comm _ _),
    exec_eq_of_retire rfl rfl (BitVec.and_comm _ _), fun hpos => ?sraNonneg, fun h31 => ?sra31, fun h0 => ?zero,
    fun hmod => ?amount⟩, fun rd a b c d s hc hd => ?slt, fun rd v s hrd => lui_addi_load hrd v s⟩
  case sub =>
    exact exec_eq_of_retire rfl rfl (by rw [hneg, ← BitVec.neg_eq_not_add, BitVec.sub_eq_add_neg])
  case sraNonneg => exact exec_eq_of_retire rfl rfl (shiftRightArith_of_nonneg hpos _)
  case sra31 =>
    rw [← shiftAmount_eq_mod] at h31
    exact ⟨_, sra_writes rd a b s, h31 ▸ shiftRightArith_31_eq_zero_or_allOnes _⟩
  case zero =>
    rw [← shiftAmount_eq_mod] at h0
    exact ⟨by simpa [h0] using sll_writes rd a b s, by simpa [h0] using srl_writes rd a b s,
      by simpa [h0] using sra_writes rd a b s⟩
  case amount =>
    have hamount : shiftAmount (s.reg b) = shiftAmount (s.reg c) := by rw [shiftAmount_eq_mod, shiftAmount_eq_mod, hmod]
    exact ⟨exec_eq_of_retire rfl rfl (by rw [hamount]), exec_eq_of_retire rfl rfl (by rw [hamount]),
      exec_eq_of_retire rfl rfl (by rw [hamount])⟩
  case slt => exact exec_eq_of_retire rfl rfl (by rw [hc, hd, ult_flipSign])

end Sys2Proof.Machine

/-!
Control transfer (41_control.md): a jump writes its link as any instruction writes rd, and every branch is `branchOp` of
its comparison. First the even words; then what `branchOp` answers, the comparisons and the claims.
-/
namespace Sys2Proof.Machine

/-! ### Even words -/

theorem getLsbD_zero_add_of_even {x y : Word} (hx : x.getLsbD 0 = false) (hy : y.getLsbD 0 = false) :
    (x + y).getLsbD 0 = false := by
  rw [BitVec.getLsbD_add (by decide), hx, hy, BitVec.carry_zero]
  rfl

theorem getLsbD_zero_of_immBok {imm : Word} (h : immBok imm = true) : imm.getLsbD 0 = false := by
  simpa using (Bool.and_eq_true_iff.mp h).2

/-! ### What a branch answers -/

section
variable {i j : Instr} {taken : Bool} {imm : Word} {s : State}

theorem exec_of_taken (hi : exec i s = branchOp taken imm s) (h : taken = true) :
    exec i s = .next { s with pc := s.pc + imm } := by
  rw [hi, h]
  rfl

theorem exec_of_not_taken (hi : exec i s = branchOp taken imm s) (h : taken = false) :
    exec i s = .next { s with pc := s.pc + 4#32 } := by
  rw [hi, h]
  rfl

/-- The branch by its condition in the words of the rule. -/
theorem exec_of_condition {p : Prop} [Decidable p] (hi : exec i s = branchOp taken imm s) (h : taken = true ↔ p) :
    exec i s = .next { s with pc := if p then s.pc + imm else s.pc + 4#32 } := by
  rw [hi, branchOp, if_congr h rfl rfl]

/-- Of two branches on opposite conditions exactly one is taken (41_control.md R248). -/
theorem exec_opposite (hi : exec i s = branchOp taken imm s) (hj : exec j s = branchOp (!taken) imm s) :
    (exec i s = .next { s with pc := s.pc + imm } ∧ exec j s = .next { s with pc := s.pc + 4#32 }) ∨
      (exec i s = .next { s with pc := s.pc + 4#32 } ∧ exec j s = .next { s with pc := s.pc + imm }) := by
  cases taken with
  | true => exact .inl ⟨exec_of_taken hi rfl, exec_of_not_taken hj rfl⟩
  | false => exact .inr ⟨exec_of_not_taken hi rfl, exec_of_taken hj rfl⟩

/-- A branch keeps an even pc even, both ways: what it adds is even (41_control.md R248). -/
theorem exec_pc_even (hi : exec i s = branchOp taken imm s) (himm : imm.getLsbD 0 = false)
    (hpc : s.pc.getLsbD 0 = false) : ∃ t, exec i s = .next t ∧ t.pc.getLsbD 0 = false := by
  cases taken with
  | true => exact ⟨_, exec_of_taken hi rfl, getLsbD_zero_add_of_even hpc himm⟩
  | false => exact ⟨_, exec_of_not_taken hi rfl, getLsbD_zero_add_of_even hpc rfl⟩

end

/-! ### The comparisons -/

theorem not_slt_iff (a b : Word) : (!a.slt b) = true ↔ b.toInt ≤ a.toInt := by
  rw [← BitVec.sle_eq_not_slt, BitVec.sle_iff_toInt_le]

theorem not_ult_iff (a b : Word) : (!a.ult b) = true ↔ b.toNat ≤ a.toNat := by
  rw [← BitVec.ule_eq_not_ult, BitVec.ule_iff_toNat_le]

theorem slt_self_eq_false (a : Word) : a.slt a = false :=
  Bool.eq_false_iff.mpr fun h => lt_irrefl _ (BitVec.slt_iff_toInt_lt.mp h)

theorem ult_self_eq_false (a : Word) : a.ult a = false :=
  Bool.eq_false_iff.mpr fun h => lt_irrefl _ (BitVec.ult_iff_toNat_lt.mp h)

/-! ### The claims -/

/-- Settles O13: both write their link to rd and go on at their target. -/
theorem jumpsLinkAndGo : Obligations.JumpsLinkAndGo :=
  fun rd _ _ s => ⟨⟨_, rfl, setReg_retiresTo rd _ _ s⟩, ⟨_, rfl, setReg_retiresTo rd _ _ s⟩⟩

/-- Settles O14: each branches on its comparison, in the words of its rule. -/
theorem branchesGoByCondition : Obligations.BranchesGoByCondition :=
  fun _ _ _ _ => ⟨exec_of_condition rfl beq_iff_eq, exec_of_condition rfl bne_iff_ne,
    exec_of_condition rfl BitVec.slt_iff_toInt_lt, exec_of_condition rfl (not_slt_iff _ _),
    exec_of_condition rfl BitVec.ult_iff_toNat_lt, exec_of_condition rfl (not_ult_iff _ _)⟩

/-- Settles O15: the pairs branch on opposite conditions, equal operands decide each comparison, and every branch adds
an even number to the pc. -/
theorem branchLaws : Obligations.BranchLaws := by
  intro a b imm s taken untaken
  refine ⟨exec_opposite rfl rfl, exec_opposite rfl rfl, exec_opposite rfl rfl, ?equal, fun hwf hpc => ?even⟩
  case equal =>
    exact ⟨exec_of_taken rfl (beq_self_eq_true _), exec_of_taken rfl ((not_slt_iff _ _).mpr le_rfl),
      exec_of_taken rfl ((not_ult_iff _ _).mpr le_rfl), exec_of_not_taken rfl (bne_self_eq_false _),
      exec_of_not_taken rfl (slt_self_eq_false _), exec_of_not_taken rfl (ult_self_eq_false _)⟩
  case even =>
    have himm : imm.getLsbD 0 = false := getLsbD_zero_of_immBok hwf
    simp only [List.forall_mem_cons]
    exact ⟨exec_pc_even rfl himm hpc, exec_pc_even rfl himm hpc, exec_pc_even rfl himm hpc, exec_pc_even rfl himm hpc,
      exec_pc_even rfl himm hpc, exec_pc_even rfl himm hpc, List.forall_mem_nil _⟩

end Sys2Proof.Machine

/-!
Loads and stores (42_loadstore.md): what each answers when its address translates, what it answers when it does not, and
the stores into RAM with translation off, which leave their bytes for the loads.
-/
namespace Sys2Proof.Machine

/-! ### Where the address translates -/

section

variable (rs1 rs2 : Reg) (imm : Word) (s : State)

theorem exec_sb : exec (.sb rs1 rs2 imm) s = storeOp 1 (s.reg rs2) (s.reg rs1 + imm) s := rfl

theorem exec_sh : exec (.sh rs1 rs2 imm) s = storeOp 2 (s.reg rs2) (s.reg rs1 + imm) s := rfl

theorem exec_sw : exec (.sw rs1 rs2 imm) s = storeOp 4 (s.reg rs2) (s.reg rs1 + imm) s := rfl

end

section

variable {n : Nat} {rd : Reg} {addr pa v : Word} {s : State}

/-- A load whose address translates retires the extended value it read, after the reads' own side effects (42_loadstore.md
R260). -/
theorem loadOp_retiresTo {i : Instr} {ext : Word → Word} (hi : exec i s = loadOp n ext rd addr s)
    (hpa : (translate addr .read s).1 = some pa) :
    ∃ t, exec i s = .next t ∧ RetiresTo (busRead n pa (translate addr .read s).2).2 t rd
      (ext (busRead n pa (translate addr .read s).2).1) (s.pc + 4#32) := by
  rw [hi, loadOp_hit hpa]
  simpa using retire_retiresTo rd (ext (busRead n pa (translate addr .read s).2).1)
    (busRead n pa (translate addr .read s).2).2

/-- A store whose address translates sends its bytes over the bus and goes on at pc + 4 (42_loadstore.md R260). -/
theorem storeOp_next (hpa : (translate addr .write s).1 = some pa) :
    storeOp n v addr s = .next { busWrite n pa v (translate addr .write s).2 with pc := s.pc + 4#32 } := by
  rw [storeOp_hit hpa, State.advance, busWrite_pc, translate_pc]

end

/-- A value read over the bus is zero-extended already. -/
theorem zeroExtend_setWidth {m : Nat} (x : BitVec m) (h : m ≤ 32) :
    ((x.setWidth 32).setWidth m).setWidth 32 = x.setWidth 32 := by
  rw [BitVec.setWidth_setWidth_of_le x h, BitVec.setWidth_eq]

theorem zeroExtend_busRead_one (pa : Word) (s : State) :
    ((busRead 1 pa s).1.setWidth 8).setWidth 32 = (busRead 1 pa s).1 := by
  rw [busRead_one]
  exact zeroExtend_setWidth _ (by omega)

theorem zeroExtend_busRead_two (pa : Word) (s : State) :
    ((busRead 2 pa s).1.setWidth 16).setWidth 32 = (busRead 2 pa s).1 := by
  rw [busRead_two]
  exact zeroExtend_setWidth (m := 16) _ (by omega)

/-- Settles O17: each load is `loadOp_retiresTo` with its width and extension. -/
theorem loadsComplete : Obligations.LoadsComplete := by
  intro rd rs1 imm pa s hpa s1
  obtain ⟨b, hb, hbRetires⟩ := loadOp_retiresTo (exec_lb rd rs1 imm s) hpa
  obtain ⟨h, hh, hhRetires⟩ := loadOp_retiresTo (exec_lh rd rs1 imm s) hpa
  have hbu := loadOp_retiresTo (exec_lbu rd rs1 imm s) hpa
  have hhu := loadOp_retiresTo (exec_lhu rd rs1 imm s) hpa
  rw [zeroExtend_busRead_one] at hbu
  rw [zeroExtend_busRead_two] at hhu
  refine ⟨⟨b, _, hb, hbRetires, BitVec.toInt_signExtend_of_le (by omega)⟩,
    ⟨h, _, hh, hhRetires, BitVec.toInt_signExtend_of_le (by omega)⟩, loadOp_retiresTo (exec_lw rd rs1 imm s) hpa, hbu, hhu,
    fun n => ?_⟩
  calc (busRead n pa s1).2 = { s1 with uart := (busRead n pa s1).2.uart } := busRead_snd n pa s1
    _ = { s with uart := (busRead n pa s1).2.uart } :=
      congrArg (fun u : State => { u with uart := (busRead n pa s1).2.uart }) (translate_snd _ _ s)

/-- Settles O19: each store is `storeOp_next` with its width, and `busWrite_storeFrame` is the frame. -/
theorem storesComplete : Obligations.StoresComplete := by
  intro rs1 rs2 imm pa s hpa hmem hcsrs s1
  refine ⟨(exec_sb rs1 rs2 imm s).trans (storeOp_next hpa), (exec_sh rs1 rs2 imm s).trans (storeOp_next hpa),
    (exec_sw rs1 rs2 imm s).trans (storeOp_next hpa), translate_snd _ _ s, fun n _ => ?_⟩
  exact busWrite_storeFrame n pa _ s1 (by simpa [s1] using hmem) (by simpa [s1] using hcsrs)

/-! ### Where it does not -/

/-- Settles O21: the failed translation is the premise of each access's row in the table `Raises`, which `exec` follows. -/
theorem dataPageFaultsTrap : Obligations.DataPageFaultsTrap := by
  intro rd rs1 rs2 aq rl imm s
  exact ⟨fun hnone i hi => exec_of_raises (.load hi (Prod.ext hnone rfl)),
    fun hnone => exec_of_raises (.loadReserved (Prod.ext hnone rfl)),
    fun hnone i hi => exec_of_raises (.store hi (Prod.ext hnone rfl)),
    fun hnone => ⟨fun hres => exec_of_raises (.storeConditional hres (Prod.ext hnone rfl)),
      fun i hi => exec_of_raises (.amo hi (Prod.ext hnone rfl))⟩,
    fun va acc => translate_snd va acc s⟩

/-! ### The bytes of an access -/

section

variable {P : Word → Prop} {a : Word}

/-- The bytes of an access are the one at its address and the ones from the next address on. -/
theorem forall_bytes_succ {n : Nat} : (∀ k, k < n + 1 → P (a + BitVec.ofNat 32 k)) ↔
    P a ∧ ∀ k, k < n → P (a + 1#32 + BitVec.ofNat 32 k) := by
  have hnext (k : Nat) : a + BitVec.ofNat 32 (k + 1) = a + 1#32 + BitVec.ofNat 32 k := by
    rw [Nat.add_comm, add_ofNat_add]
  rw [Nat.forall_lt_succ_left, BitVec.add_zero]
  exact and_congr_right fun _ => forall₂_congr fun k _ => by rw [hnext]

theorem forall_bytes_one : (∀ k, k < 1 → P (a + BitVec.ofNat 32 k)) ↔ P a := by
  simp only [Nat.forall_lt_succ_right, Nat.not_lt_zero, false_imp_iff, forall_const, true_and, BitVec.add_zero]

theorem forall_bytes_two : (∀ k, k < 2 → P (a + BitVec.ofNat 32 k)) ↔ P a ∧ P (a + 1#32) := by
  simp only [Nat.forall_lt_succ_right, Nat.not_lt_zero, false_imp_iff, forall_const, true_and, BitVec.add_zero]

theorem forall_bytes_four : (∀ k, k < 4 → P (a + BitVec.ofNat 32 k)) ↔
    P a ∧ P (a + 1#32) ∧ P (a + 2#32) ∧ P (a + 3#32) := by
  simp only [Nat.forall_lt_succ_right, Nat.not_lt_zero, false_imp_iff, forall_const, true_and, and_assoc, BitVec.add_zero]

end

theorem add_ofNat_offset (base x : Word) : base + BitVec.ofNat 32 (offset base x) = x := by
  rw [offset, BitVec.ofNat_toNat, BitVec.setWidth_eq, BitVec.add_comm, BitVec.sub_add_cancel]

theorem offset_self (base : Word) : offset base base = 0 := by
  rw [offset, BitVec.sub_self]; rfl

/-- Another address is one closer to the next base. -/
theorem offset_of_ne {base x : Word} (h : x ≠ base) : offset base x = offset (base + 1#32) x + 1 := by
  have hne : x.toNat ≠ base.toNat := fun e => h (BitVec.eq_of_toNat_eq e)
  simp only [offset, BitVec.toNat_sub, BitVec.toNat_add, BitVec.toNat_ofNat]
  omega

/-- The byte before a base is the last one after it. -/
theorem offset_succ_self (base : Word) : offset (base + 1#32) base = 4294967295 := by
  simp only [offset, BitVec.toNat_sub, BitVec.toNat_add, BitVec.toNat_ofNat]
  omega

/-! ### Stores into RAM -/

section

variable {n : Nat} {pa : Word} {s : State}

/-- A store into RAM changes memory and nothing else (20_memory.md R84). -/
theorem busWrite_ram (hram : ∀ k, k < n → window s.cfg (pa + BitVec.ofNat 32 k).toNat = .ram) (v : Word) :
    busWrite n pa v s = { s with mem := (busWrite n pa v s).mem } := by
  induction n generalizing pa v s with
  | zero => rfl
  | succ n ih =>
    obtain ⟨hfirst, hrest⟩ := (forall_bytes_succ (P := fun a => window s.cfg a.toNat = .ram)).1 hram
    rw [busWrite, busWriteByte_ram hfirst]
    exact ih (s := { s with mem := s.mem.write pa.toNat (v.setWidth 8) }) hrest (v >>> 8)

/-- Every byte of the address space after a store into RAM: the stored ones, low byte first, and the others as before
(20_memory.md R71, R84). -/
theorem busPeek_busWrite_ram (hwf : s.mem.wf = true) (hn : n ≤ 4)
    (hram : ∀ k, k < n → window s.cfg (pa + BitVec.ofNat 32 k).toNat = .ram) (v x : Word) :
    busPeek x (busWrite n pa v s) = if offset pa x < n then v.extractLsb' (8 * offset pa x) 8 else busPeek x s := by
  induction n generalizing pa v s with
  | zero => rfl
  | succ n ih =>
    obtain ⟨hfirst, hrest⟩ := (forall_bytes_succ (P := fun a => window s.cfg a.toNat = .ram)).1 hram
    have hafter := ih (busWriteByte_mem_wf hwf pa (v.setWidth 8)) (by omega)
      (by rw [busWriteByte_ram hfirst]; exact hrest) (v >>> 8)
    rw [busWrite, hafter, busPeek_write_ram hwf hfirst]
    by_cases hx : x = pa
    · subst hx
      rw [offset_succ_self, offset_self, if_neg (by omega), if_pos rfl, if_pos (by omega)]
      exact BitVec.setWidth_eq_extractLsb' (by omega)
    · have hbyte (o : Nat) : (v >>> 8).extractLsb' (8 * o) 8 = v.extractLsb' (8 * (o + 1)) 8 := by
        rw [← setWidth_shiftRight_eq_extractLsb', ← setWidth_shiftRight_eq_extractLsb', ← BitVec.shiftRight_add,
          Nat.mul_succ, Nat.add_comm]
      rw [offset_of_ne hx, if_neg hx, hbyte]
      simp only [Nat.add_lt_add_iff_right]

end

/-- `t` is `s` after an instruction stored the low `n` bytes of `v` in RAM at `a`: the low byte at the lowest address,
every other byte of the address space as before, and nothing but memory and pc changed (20_memory.md R71, R84). -/
structure StoredInRam (s t : State) (n : Nat) (a v : Word) : Prop where
  rest : t = { s with mem := t.mem, pc := s.pc + 4#32 }
  stored : ∀ k, k < n → busPeek (a + BitVec.ofNat 32 k) t = v.extractLsb' (8 * k) 8
  kept : ∀ x, (∀ k, k < n → x ≠ a + BitVec.ofNat 32 k) → busPeek x t = busPeek x s

section

variable {s t : State} {n : Nat} {a v : Word}

theorem StoredInRam.first (h : StoredInRam s t n a v) (hn : 0 < n) : busPeek a t = v.extractLsb' 0 8 := by
  simpa using h.stored 0 hn

theorem StoredInRam.reg_eq (h : StoredInRam s t n a v) (r : Reg) : t.reg r = s.reg r :=
  State.reg_congr (congrArg State.regs h.rest) r

theorem StoredInRam.mmu_eq (h : StoredInRam s t n a v) : t.mmu = s.mmu := by rw [h.rest]

theorem StoredInRam.cfg_eq (h : StoredInRam s t n a v) : t.cfg = s.cfg := by rw [h.rest]

/-- Where RAM was is RAM after the store, and so no register of the UART. -/
theorem StoredInRam.pure (h : StoredInRam s t n a v) {x : Word} (hram : window s.cfg x.toNat = .ram) :
    window t.cfg x.toNat ≠ .uart := by
  rw [h.cfg_eq, hram]; decide

end

/-- With translation off a store of bytes that are RAM's stores them at its address. -/
theorem storeOp_storedInRam {n : Nat} {v addr : Word} {s : State} (hoff : s.mmu.mode = .off) (hwf : s.mem.wf = true)
    (hn : n ≤ 4) (hram : ∀ k, k < n → window s.cfg (addr + BitVec.ofNat 32 k).toNat = .ram) :
    ∃ t, storeOp n v addr s = .next t ∧ StoredInRam s t n addr v := by
  have hpa : (translate addr .write s).1 = some addr := by rw [translate_off hoff]
  have hpeek := busPeek_busWrite_ram hwf hn hram v
  refine ⟨{ busWrite n addr v s with pc := s.pc + 4#32 }, by rw [storeOp_next hpa, translate_off hoff], ?_, fun k hk => ?_,
    fun x hx => ?_⟩
  · exact congrArg (fun u : State => { u with pc := s.pc + 4#32 }) (busWrite_ram hram v)
  · have hoffset : offset addr (addr + BitVec.ofNat 32 k) = k := offset_add_ofNat addr (by omega)
    have hbyte := hpeek (addr + BitVec.ofNat 32 k)
    rwa [hoffset, if_pos hk] at hbyte
  · have hbyte := hpeek x
    rwa [if_neg fun hlt => hx _ hlt (add_ofNat_offset addr x).symm] at hbyte

/-- Settles O20: each store is `storeOp_storedInRam` with its width, byte by byte. -/
theorem plainStoresChangeOnlyBytes : Obligations.PlainStoresChangeOnlyBytes := by
  intro rs1 rs2 imm s hoff hwf a v
  have stores {n : Nat} (hn : n ≤ 4) (hram : ∀ k, k < n → window s.cfg (a + BitVec.ofNat 32 k).toNat = .ram) :=
    storeOp_storedInRam (v := v) hoff hwf hn hram
  refine ⟨fun h0 => ?_, fun h0 h1 => ?_, fun h0 h1 h2 h3 => ?_⟩
  · obtain ⟨t, he, ht⟩ := stores (by omega) (forall_bytes_one (P := fun a => window s.cfg a.toNat = .ram).2 h0)
    exact ⟨t, he, ht.rest, ht.first (by omega), fun x hx => ht.kept x (forall_bytes_one.2 hx)⟩
  · obtain ⟨t, he, ht⟩ := stores (by omega) (forall_bytes_two (P := fun a => window s.cfg a.toNat = .ram).2 ⟨h0, h1⟩)
    exact ⟨t, he, ht.rest, ht.first (by omega), ht.stored 1 (by omega),
      fun x hx0 hx1 => ht.kept x (forall_bytes_two.2 ⟨hx0, hx1⟩)⟩
  · obtain ⟨t, he, ht⟩ := stores (by omega)
      (forall_bytes_four (P := fun a => window s.cfg a.toNat = .ram).2 ⟨h0, h1, h2, h3⟩)
    exact ⟨t, he, ht.rest, ht.first (by omega), ht.stored 1 (by omega), ht.stored 2 (by omega), ht.stored 3 (by omega),
      fun x hx0 hx1 hx2 hx3 => ht.kept x (forall_bytes_four.2 ⟨hx0, hx1, hx2, hx3⟩)⟩

/-! ### Stores, then loads -/

/-- What an instruction writes to rd is read there, unless rd is x0. -/
theorem Writes.reads {i : Instr} {s : State} {rd : Reg} {v : Word} (h : Writes i s rd v) (hrd : rd ≠ 0#5) :
    ∃ t, exec i s = .next t ∧ t.reg rd = v := by
  obtain ⟨t, he, -, hregs, -⟩ := h
  exact ⟨t, he, (hregs rd).trans (if_pos ⟨rfl, hrd⟩)⟩

/-- A halfword is its two bytes, the first one lowest. -/
theorem append_bytes_two (v : Word) : v.extractLsb' 8 8 ++ v.extractLsb' 0 8 = v.extractLsb' 0 16 :=
  BitVec.extractLsb'_append_extractLsb'_eq_extractLsb' (show 8 = 0 + 8 from rfl)

/-- A word is its four bytes, the first one lowest. -/
theorem append_bytes_four (v : Word) :
    v.extractLsb' 24 8 ++ v.extractLsb' 16 8 ++ v.extractLsb' 8 8 ++ v.extractLsb' 0 8 = v := by
  rw [BitVec.extractLsb'_append_extractLsb'_eq_extractLsb' (show 24 = 16 + 8 from rfl),
    BitVec.extractLsb'_append_extractLsb'_eq_extractLsb' (show 16 = 8 + 8 from rfl),
    BitVec.extractLsb'_append_extractLsb'_eq_extractLsb' (show 8 = 0 + 8 from rfl)]
  exact BitVec.extractLsb'_eq_self

/-- Settles O22: the loads of O18 show the bytes that `storeOp_storedInRam` left. -/
theorem storeThenLoadReturnsValue : Obligations.StoreThenLoadReturnsValue := by
  intro rd rs1 rs2 imm imm' s hoff hwf hrd hram
  obtain ⟨t, ht, hword⟩ := storeOp_storedInRam (v := s.reg rs2) hoff hwf (n := 4) (by omega) hram
  obtain ⟨u, hu, hhalf⟩ := storeOp_storedInRam (v := s.reg rs2) hoff hwf (n := 2) (by omega) fun k hk => hram k (by omega)
  refine ⟨⟨t, ht, ?lw, fun i hi hsame => ?lbu⟩, ⟨u, hu, ?lh⟩⟩
  case lw =>
    obtain ⟨-, -, -, -, hlw⟩ := plainLoadsGiveBytes rd rs1 imm t (by rw [hword.mmu_eq, hoff]) fun i hi => by
      rw [hword.reg_eq]; exact hword.pure (hram i hi)
    obtain ⟨w, hw, hval⟩ := hlw.reads hrd
    refine ⟨w, hw, hval.trans ?_⟩
    rw [hword.reg_eq, hword.stored 3 (by omega), hword.stored 2 (by omega), hword.stored 1 (by omega), hword.first (by omega),
      append_bytes_four]
  case lbu =>
    have haddr : t.reg rs1 + imm' = s.reg rs1 + imm + BitVec.ofNat 32 i := by rw [hword.reg_eq, hsame]
    have hlbu := writes_of_loadOp (exec_lbu rd rs1 imm' t) (by rw [hword.mmu_eq, hoff])
      (forall_bytes_one (P := fun a => window t.cfg a.toNat ≠ .uart).2 (by rw [haddr]; exact hword.pure (hram i hi)))
    obtain ⟨w, hw, hval⟩ := hlbu.reads hrd
    refine ⟨w, hw, ?_⟩
    rw [hval, zeroExtend_busRead_one, busRead_one, haddr, hword.stored i hi, BitVec.toNat_setWidth_of_le (by omega)]
  case lh =>
    obtain ⟨-, -, ⟨v, hlh, hint⟩, -⟩ := plainLoadsGiveBytes rd rs1 imm u (by rw [hhalf.mmu_eq, hoff]) fun i hi => by
      rw [hhalf.reg_eq]; exact hhalf.pure (hram i hi)
    obtain ⟨w, hw, hval⟩ := hlh.reads hrd
    refine ⟨w, hw, ?_⟩
    rw [hval, hint, hhalf.reg_eq, hhalf.stored 1 (by omega), hhalf.first (by omega), append_bytes_two]

end Sys2Proof.Machine

/-!
Multiply and divide (43_muldiv.md): each instruction retires the `lo32` or `hi32` of an exact integer. First these two
narrowings; then when they lose nothing, the quotients and remainders, and the claims.
-/
namespace Sys2Proof.Machine

/-! ### Narrowing an integer to a word -/

@[simp] theorem lo32_toInt (w : Word) : lo32 w.toInt = w := BitVec.ofInt_toInt

@[simp] theorem lo32_add (m n : Int) : lo32 (m + n) = lo32 m + lo32 n := BitVec.ofInt_add m n

@[simp] theorem lo32_mul (m n : Int) : lo32 (m * n) = lo32 m * lo32 n := BitVec.ofInt_mul m n

/-- The low word of the signed product is the product of words (43_muldiv.md R281). -/
theorem lo32_toInt_mul_toInt (a b : Word) : lo32 (a.toInt * b.toInt) = a * b := by
  rw [lo32_mul, lo32_toInt, lo32_toInt]

/-- The high word of a 64-bit signed number is its floored quotient (43_muldiv.md R282). -/
theorem toInt_hi32 {n : Int} (h : |n| < 2 ^ 63) : (hi32 n).toInt = n / 4294967296 := by
  obtain ⟨hlo, hhi⟩ := abs_lt.1 h
  exact BitVec.toInt_ofInt_eq_self (by decide) (by omega) (by omega)

/-- The high word of a 64-bit unsigned number is its quotient (43_muldiv.md R284). -/
theorem toNat_hi32 {n : Nat} (h : n < 2 ^ 64) : (hi32 n).toNat = n / 4294967296 := by
  have hhigh : hi32 n = BitVec.ofNat 32 (n / 4294967296) := BitVec.ofInt_natCast 32 _
  rw [hhigh, BitVec.toNat_ofNat, Nat.mod_eq_of_lt (by omega)]

/-! ### Products fit in 64 bits (43_muldiv.md R280) -/

theorem abs_toInt_le (a : Word) : |a.toInt| ≤ 2 ^ 31 :=
  abs_le.2 ⟨a.le_toInt, a.toInt_lt.le⟩

theorem abs_toInt_mul_lt (a : Word) {n : Int} (hn : |n| < 2 ^ 32) : |a.toInt * n| < 2 ^ 63 := by
  calc |a.toInt * n| = |a.toInt| * |n| := abs_mul _ _
    _ ≤ 2 ^ 31 * |n| := mul_le_mul_of_nonneg_right (abs_toInt_le a) (abs_nonneg n)
    _ < 2 ^ 63 := by omega

theorem abs_toInt_lt (b : Word) : |b.toInt| < 2 ^ 32 := (abs_toInt_le b).trans_lt (by decide)

theorem abs_toNat_lt (b : Word) : |(b.toNat : Int)| < 2 ^ 32 := by
  rw [Nat.abs_cast]
  exact_mod_cast b.isLt

theorem toNat_mul_toNat_lt (a b : Word) : a.toNat * b.toNat < 2 ^ 64 :=
  (Nat.mul_lt_mul'' a.isLt b.isLt).trans_eq (Nat.pow_add 2 32 32).symm

/-! ### Unsigned division -/

section
variable {a b : Word}

@[simp] theorem divuWord_zero (a : Word) : divuWord a 0#32 = 0xFFFFFFFF#32 := rfl

theorem divuWord_eq_udiv (hb : b ≠ 0#32) : divuWord a b = a / b := (if_neg hb).trans BitVec.udiv_def.symm

/-- With a zero divisor the library's remainder is the dividend too (43_muldiv.md R288). -/
theorem remuWord_eq_umod (a b : Word) : remuWord a b = a % b := by
  by_cases hb : b = 0#32
  · rw [hb, BitVec.umod_zero]
    rfl
  · exact (if_neg hb).trans BitVec.umod_def.symm

theorem divuWord_mul_add_remuWord (hb : b ≠ 0#32) : divuWord a b * b + remuWord a b = a := by
  apply BitVec.eq_of_toNat_eq
  rw [divuWord_eq_udiv hb, remuWord_eq_umod, BitVec.toNat_add, BitVec.toNat_mul, BitVec.toNat_udiv, BitVec.toNat_umod,
    Nat.mod_add_mod, Nat.div_add_mod', Nat.mod_eq_of_lt a.isLt]

end

/-! ### Signed division -/

section
variable {a b : Word}

theorem divOverflow_iff : divOverflow a b = true ↔ a = 0x80000000#32 ∧ b = 0xFFFFFFFF#32 := by
  simp [divOverflow]

@[simp] theorem divWord_zero (a : Word) : divWord a 0#32 = 0xFFFFFFFF#32 := rfl

@[simp] theorem remWord_zero (a : Word) : remWord a 0#32 = a := rfl

/-- The fixed quotient of the overflow is the exact quotient 2^31, narrowed: one formula for every b not 0
(43_muldiv.md R285). -/
theorem divWord_eq_lo32 (hb : b ≠ 0#32) : divWord a b = lo32 (a.toInt.tdiv b.toInt) := by
  rw [divWord, if_neg hb]
  split
  next hover =>
    obtain ⟨rfl, rfl⟩ := divOverflow_iff.1 hover
    rfl
  next => rfl

/-- The fixed remainders of the zero divisor and of the overflow are the exact ones, narrowed (43_muldiv.md R287). -/
theorem remWord_eq_lo32 (a b : Word) : remWord a b = lo32 (a.toInt.tmod b.toInt) := by
  rw [remWord]
  split
  next hb => rw [hb, BitVec.toInt_zero, Int.tmod_zero, lo32_toInt]
  next =>
    split
    next hover =>
      obtain ⟨rfl, rfl⟩ := divOverflow_iff.1 hover
      rfl
    next => rw [Int.tmod_def, mul_comm]

/-- The identity of R289, the overflow included: `lo32` keeps sums and products. -/
theorem divWord_mul_add_remWord (hb : b ≠ 0#32) : divWord a b * b + remWord a b = a := by
  calc divWord a b * b + remWord a b
      = lo32 (a.toInt.tdiv b.toInt) * lo32 b.toInt + lo32 (a.toInt.tmod b.toInt) := by
        rw [divWord_eq_lo32 hb, remWord_eq_lo32, lo32_toInt]
    _ = lo32 (a.toInt.tdiv b.toInt * b.toInt + a.toInt.tmod b.toInt) := by rw [lo32_add, lo32_mul]
    _ = a := by rw [Int.tdiv_mul_add_tmod, lo32_toInt]

/-- Outside the overflow the quotient is a signed word, the library's `sdiv`. -/
theorem toInt_divWord (hb : b ≠ 0#32) (hover : ¬ (a = 0x80000000#32 ∧ b = 0xFFFFFFFF#32)) :
    (divWord a b).toInt = a.toInt.tdiv b.toInt := by
  have hsdiv : (a.sdiv b).toInt = a.toInt.tdiv b.toInt := BitVec.toInt_sdiv_of_ne_or_ne a b (not_and_or.1 hover)
  rw [divWord_eq_lo32 hb, ← hsdiv, lo32_toInt]

/-- The remainder always is a signed word, the library's `srem`. -/
theorem toInt_remWord (a b : Word) : (remWord a b).toInt = a.toInt.tmod b.toInt := by
  rw [remWord_eq_lo32, ← BitVec.toInt_srem, lo32_toInt]

theorem abs_toInt_remWord_lt (hb : b ≠ 0#32) : |(remWord a b).toInt| < |b.toInt| := by
  have hpos : 0 < b.toInt.natAbs := Int.natAbs_pos.2 fun h => hb (BitVec.eq_of_toInt_eq h)
  rw [toInt_remWord, Int.abs_eq_natAbs, Int.abs_eq_natAbs, Int.natAbs_tmod]
  exact_mod_cast Nat.mod_lt _ hpos

end

/-! ### The claims -/

/-- Settles O23: MUL's narrowing is the product of words, and the exact products of the others fit in 64 bits. -/
theorem multiplyResults : Obligations.MultiplyResults := by
  intro rd rs1 rs2 s
  refine ⟨lo32_toInt_mul_toInt _ _ ▸ writes_of_retire rfl,
    ⟨_, writes_of_retire rfl, toInt_hi32 (abs_toInt_mul_lt _ (abs_toInt_lt _))⟩,
    ⟨_, writes_of_retire rfl, toInt_hi32 (abs_toInt_mul_lt _ (abs_toNat_lt _))⟩,
    ⟨_, writes_of_retire rfl, toNat_hi32 (toNat_mul_toNat_lt _ _)⟩⟩

/-- Settles O24: the four retire their words, of which each clause is one of the lemmas above. -/
theorem divideResults : Obligations.DivideResults := by
  intro rd rs1 rs2 s a b
  refine ⟨divWord a b, divuWord a b, remWord a b, remuWord a b, writes_of_retire rfl, writes_of_retire rfl,
    writes_of_retire rfl, writes_of_retire rfl, fun hb => ?zero, fun ha hb => ?overflow, fun hb => ?unsigned,
    fun hb hover => ⟨toInt_divWord hb hover, toInt_remWord a b, abs_toInt_remWord_lt hb⟩⟩
  case zero =>
    rw [hb]
    exact ⟨divWord_zero a, divuWord_zero a, remWord_zero a, (remuWord_eq_umod a _).trans BitVec.umod_zero⟩
  case overflow =>
    rw [ha, hb]
    decide
  case unsigned =>
    refine ⟨?_, ?_, divuWord_mul_add_remuWord hb, divWord_mul_add_remWord hb⟩
    · rw [divuWord_eq_udiv hb, BitVec.toNat_udiv]
    · rw [remuWord_eq_umod, BitVec.toNat_umod]

end Sys2Proof.Machine

/-!
Atomics (44_atomics.md): what LR.W, SC.W and an AMO answer when their address translates, and what the execution of one
instruction does to the reservation.
-/
namespace Sys2Proof.Machine

/-! ### Where the address translates -/

section

variable {rd rs1 rs2 : Reg} {pa : Word} {s : State}

/-- A translation and the bus read after it change the UART at most. -/
theorem busRead_translate_snd (n : Nat) (pa va : Word) (acc : Access) (s : State) :
    (busRead n pa (translate va acc s).2).2 = { s with uart := (busRead n pa (translate va acc s).2).2.uart } :=
  (busRead_snd n pa _).trans (congrArg
    (fun u : State => { u with uart := (busRead n pa (translate va acc s).2).2.uart }) (translate_snd va acc s))

/-- LR.W whose address translates retires the word it read and reserves its virtual address (44_atomics.md R300). -/
theorem exec_lrW_hit (aq rl : Bool) (hpa : (translate (s.reg rs1) .read s).1 = some pa) :
    exec (.lrW rd rs1 aq rl) s =
      retire rd (busRead 4 pa (translate (s.reg rs1) .read s).2).1
        { (busRead 4 pa (translate (s.reg rs1) .read s).2).2 with reservation := some (s.reg rs1) } := by
  have ht : translate (s.reg rs1) .read s = (some pa, (translate (s.reg rs1) .read s).2) := Prod.ext hpa rfl
  rw [exec, execLrW, ht]

/-- SC.W with its reservation, whose address translates, stores, clears the reservation and retires 0 (44_atomics.md
R301). -/
theorem exec_scW_hit (aq rl : Bool) (hres : s.reservation = some (s.reg rs1))
    (hpa : (translate (s.reg rs1) .write s).1 = some pa) :
    exec (.scW rd rs1 rs2 aq rl) s =
      retire rd 0#32 { busWrite 4 pa (s.reg rs2) (translate (s.reg rs1) .write s).2 with reservation := none } := by
  have ht : translate (s.reg rs1) .write s = (some pa, (translate (s.reg rs1) .write s).2) := Prod.ext hpa rfl
  rw [exec, execScW, if_pos hres, ht]

/-- SC.W without its reservation retires 1 (44_atomics.md R301). -/
theorem exec_scW_miss (aq rl : Bool) (hres : s.reservation ≠ some (s.reg rs1)) :
    exec (.scW rd rs1 rs2 aq rl) s = retire rd 1#32 s := if_neg hres

/-- An AMO whose address translates stores `new`, the operation's result, where it read the old word, which it retires
(44_atomics.md R302). -/
theorem amoOp_retiresTo {i : Instr} (op : Word → Word → Word) {new : Word} (hi : exec i s = amoOp op rd rs1 rs2 s)
    (hpa : (translate (s.reg rs1) .write s).1 = some pa)
    (hnew : op (busRead 4 pa (translate (s.reg rs1) .write s).2).1 (s.reg rs2) = new) :
    ∃ t, exec i s = .next t ∧
      RetiresTo (busWrite 4 pa new (busRead 4 pa (translate (s.reg rs1) .write s).2).2) t rd
        (busRead 4 pa (translate (s.reg rs1) .write s).2).1 (s.pc + 4#32) := by
  rw [hi, amoOp_hit hpa, hnew]
  simpa using retire_retiresTo rd (busRead 4 pa (translate (s.reg rs1) .write s).2).1
    (busWrite 4 pa new (busRead 4 pa (translate (s.reg rs1) .write s).2).2)

end

/-- Settles O25: `exec_lrW_hit` retires the word, and `busRead_translate_snd` is the frame. -/
theorem loadReservedReserves : Obligations.LoadReservedReserves := by
  intro rd rs1 aq rl pa s hpa r
  refine ⟨?_, busRead_translate_snd 4 pa _ _ s⟩
  rw [exec_lrW_hit aq rl hpa]
  simpa [r] using retire_retiresTo rd r.1 { r.2 with reservation := some (s.reg rs1) }

/-- Settles O26: both outcomes of SC.W retire, and `busWrite_storeFrame` is the frame of the bytes stored. -/
theorem storeConditionalStoresOrFails : Obligations.StoreConditionalStoresOrFails := by
  intro rd rs1 rs2 aq rl s
  refine ⟨fun hres => writes_of_retire (exec_scW_miss aq rl hres), ?_⟩
  intro pa hres hpa hmem hcsrs s1
  refine ⟨?_, translate_snd _ _ s, busWrite_storeFrame 4 pa _ s1 (by simpa [s1] using hmem) (by simpa [s1] using hcsrs)⟩
  rw [exec_scW_hit aq rl hres hpa]
  simpa [s1] using retire_retiresTo rd 0#32 { busWrite 4 pa (s.reg rs2) s1 with reservation := none }

/-- Settles O27: each AMO is `amoOp_retiresTo` with its operation, where the comparisons of words are those of their
numbers, and `busWrite_storeFrame` is the frame of the bytes stored. -/
theorem amoResults : Obligations.AmoResults := by
  intro rd rs1 rs2 aq rl pa s hpa hmem hcsrs r old src done
  refine ⟨amoOp_retiresTo (fun _ b => b) rfl hpa rfl, amoOp_retiresTo (· + ·) rfl hpa rfl,
    amoOp_retiresTo (· ^^^ ·) rfl hpa rfl, amoOp_retiresTo (· &&& ·) rfl hpa rfl, amoOp_retiresTo (· ||| ·) rfl hpa rfl,
    amoOp_retiresTo (fun a b => if a.slt b then a else b) rfl hpa (if_congr BitVec.slt_iff_toInt_lt rfl rfl),
    amoOp_retiresTo (fun a b => if b.slt a then a else b) rfl hpa (if_congr BitVec.slt_iff_toInt_lt rfl rfl),
    amoOp_retiresTo (fun a b => if a.ult b then a else b) rfl hpa (if_congr BitVec.ult_iff_toNat_lt rfl rfl),
    amoOp_retiresTo (fun a b => if b.ult a then a else b) rfl hpa (if_congr BitVec.ult_iff_toNat_lt rfl rfl),
    busRead_translate_snd 4 pa _ _ s, fun new => ?_⟩
  exact busWrite_storeFrame 4 pa new r.2 (by simpa [r] using hmem) (by simpa [r] using hcsrs)

/-! ### The reservation -/

/-- Where `r`, the answer of `i` in `s`, is a next state, the reservation of `s` is still there, or `i` is the LR.W that set
it or the SC.W that used it, or an exception has cleared it (44_atomics.md R312, 60_exceptions.md R418). -/
def ReservationRule (i : Instr) (s : State) (r : Result) : Prop :=
  ∀ t, r = .next t → t.reservation = s.reservation ∨
    (∃ rd rs1 aq rl, i = .lrW rd rs1 aq rl ∧ t.reservation = some (s.reg rs1)) ∨
    (∃ rd rs1 rs2 aq rl, i = .scW rd rs1 rs2 aq rl ∧ s.reservation = some (s.reg rs1) ∧ t.reservation = none) ∨
    (t.raised = true ∧ s.cfg.reservationClearedOnTrap = true ∧ t.reservation = none)

namespace ReservationRule

variable {i : Instr} {s u : State}

theorem of_kept (h : u.reservation = s.reservation) : ReservationRule i s (.next u) := by
  rintro t ⟨⟩
  exact .inl h

theorem of_takeException (h : u = { s with uart := u.uart }) (e : Exc) (tval : Word) :
    ReservationRule i s (takeException e tval u) := by
  intro t ht
  obtain ⟨-, hx⟩ | ⟨p, -, -, hx⟩ := takeException_cases u e tval
  · rw [hx] at ht
    cases ht
  · rw [hx] at ht
    cases ht
    rw [deliver_eq, h]
    cases hclear : s.cfg.reservationClearedOnTrap <;> simp

theorem of_raises {e : Exc} {tval : Word} (h : Raises i s e tval u) : ReservationRule i s (exec i s) := by
  rw [exec_of_raises h]
  exact of_takeException h.state_eq e tval

theorem of_loadOp (n : Nat) (ext : Word → Word) (rd : Reg) (addr : Word) :
    ReservationRule i s (loadOp n ext rd addr s) := by
  cases ht : (translate addr .read s).1 with
  | none => rw [loadOp_fault ht]; exact of_takeException (translate_snd _ _ s) _ _
  | some pa => rw [loadOp_hit ht]; exact of_kept (by simp)

theorem of_storeOp (n : Nat) (v addr : Word) : ReservationRule i s (storeOp n v addr s) := by
  cases ht : (translate addr .write s).1 with
  | none => rw [storeOp_fault ht]; exact of_takeException (translate_snd _ _ s) _ _
  | some pa => rw [storeOp_hit ht]; exact of_kept (by simp)

theorem of_amoOp (op : Word → Word → Word) (rd rs1 rs2 : Reg) : ReservationRule i s (amoOp op rd rs1 rs2 s) := by
  cases ht : (translate (s.reg rs1) .write s).1 with
  | none => rw [amoOp_fault ht]; exact of_takeException (translate_snd _ _ s) _ _
  | some pa => rw [amoOp_hit ht]; exact of_kept (by simp)

theorem of_csrOp (kind : CsrKind) (w : Word) (rd : Reg) (field : BitVec 5) (src : Word) (csr : CsrAddr) :
    ReservationRule i s (csrOp kind w rd field src csr s) := by
  cases ha : csrAllowed kind field csr s.priv with
  | false => rw [csrOp_denied ha]; exact of_takeException rfl _ _
  | true => rw [csrOp_allowed ha]; exact of_kept (by split <;> simp)

theorem execEcall : ReservationRule .ecall s (execEcall s) := by
  unfold Machine.execEcall
  split
  · exact of_kept rfl
  · exact of_takeException rfl _ _

theorem execMret : ReservationRule .mret s (execMret s) := by
  unfold Machine.execMret
  split
  · exact of_takeException rfl _ _
  · split
    · rintro t ⟨⟩
    · exact of_kept rfl

theorem execSret : ReservationRule .sret s (execSret s) := by
  unfold Machine.execSret
  split
  · exact of_takeException rfl _ _
  · exact of_kept rfl

/-- LR.W reserves the address in rs1 where it does not fault (44_atomics.md R300). -/
theorem exec_lrW (rd rs1 : Reg) (aq rl : Bool) : ReservationRule (.lrW rd rs1 aq rl) s (exec (.lrW rd rs1 aq rl) s) := by
  cases ht : (translate (s.reg rs1) .read s).1 with
  | none => exact of_raises (.loadReserved (Prod.ext ht rfl))
  | some pa =>
    rw [exec_lrW_hit aq rl ht]
    rintro t ⟨⟩
    exact .inr (.inl ⟨rd, rs1, aq, rl, rfl, rfl⟩)

/-- SC.W clears the reservation where it holds it and does not fault (44_atomics.md R301). -/
theorem exec_scW (rd rs1 rs2 : Reg) (aq rl : Bool) :
    ReservationRule (.scW rd rs1 rs2 aq rl) s (exec (.scW rd rs1 rs2 aq rl) s) := by
  by_cases hres : s.reservation = some (s.reg rs1)
  · cases ht : (translate (s.reg rs1) .write s).1 with
    | none => exact of_raises (.storeConditional hres (Prod.ext ht rfl))
    | some pa =>
      rw [exec_scW_hit aq rl hres ht]
      rintro t ⟨⟩
      exact .inr (.inr (.inl ⟨rd, rs1, rs2, aq, rl, rfl, hres, rfl⟩))
  · rw [exec_scW_miss aq rl hres]
    exact of_kept rfl

end ReservationRule

/-- LR.W and SC.W have a clause of their own; every other instruction keeps the reservation, by the shared operation it is. -/
theorem exec_reservationRule (i : Instr) (s : State) : ReservationRule i s (exec i s) := by
  unfold exec
  cases i with
  | lrW rd rs1 aq rl => exact .exec_lrW rd rs1 aq rl
  | scW rd rs1 rs2 aq rl => exact .exec_scW rd rs1 rs2 aq rl
  | lb | lh | lw | lbu | lhu => exact .of_loadOp _ _ _ _
  | sb | sh | sw => exact .of_storeOp _ _ _
  | amoswapW | amoaddW | amoxorW | amoandW | amoorW | amominW | amomaxW | amominuW | amomaxuW =>
    exact .of_amoOp _ _ _ _
  | csrrw | csrrs | csrrc | csrrwi | csrrsi | csrrci => exact .of_csrOp _ _ _ _ _ _
  | ecall => exact .execEcall
  | ebreak => exact .of_takeException rfl _ _
  | mret => exact .execMret
  | sret => exact .execSret
  | _ => exact .of_kept rfl

/-- Settles O28: `exec_reservationRule`, the case split over the instructions. -/
theorem reservationLife : Obligations.ReservationLife :=
  fun i s t he _ => exec_reservationRule i s t he

end Sys2Proof.Machine

/-!
System instructions (46_system.md). A trap is a row of the table `Raises`, which `exec` follows, and the entry that taking
an exception makes; a return is `trapReturn` with the mstatus whose bits `mstatusMret_bit` and `mstatusSret_bit` give.
-/
namespace Sys2Proof.Machine

/-- Settles O34: each of the four answers `State.advance`, whatever its fields hold. -/
theorem noOpsAdvanceOnly : Obligations.NoOpsAdvanceOnly := by
  intro fm pred succ imm rs1 rs2 rd s i hi
  simp only [List.mem_cons, List.not_mem_nil, or_false] at hi
  obtain rfl | rfl | rfl | rfl := hi
  all_goals rfl

/-! ### Environment calls and breakpoints -/

/-- An instruction that the table `Raises` lets raise an exception, with no access before it, enters M or S with it. -/
theorem takesException_of_raises {i : Instr} {s : State} {e : Exc} {tval : Word} (hwf : Sparse.wf 0#32 s.csrs = true)
    (h : Raises i s e tval s) : TakesException i s e.code tval := by
  unfold TakesException
  rw [exec_of_raises h]
  exact ⟨takeException_entersM hwf tval, takeException_entersS hwf tval⟩

theorem exec_ecall_exits {s : State} (hgate : s.cfg.ecallExitEnabled = true) (hcall : s.reg 17#5 = 93#32) :
    exec .ecall s = .next { s with exited := some (s.reg 10#5 >>> 1) } :=
  if_pos ⟨hcall, hgate⟩

/-- Settles O35: without the exit a row of the table `Raises` for each mode; with it, a run that has ended. -/
theorem ecallTrapsOrEndsRun : Obligations.EcallTrapsOrEndsRun := by
  refine ⟨fun s hwf hexit => ?_, fun s hgate hcall => ?_, fun s v hended => step_ended (by simp [hended])⟩
  · have hraises {e : Exc} := Raises.ecall (s := s) (e := e) fun h => hexit h.symm
    cases hp : s.priv
    case u => exact takesException_of_raises hwf (e := .environmentCallFromUMode) (hraises (by simp [hp]))
    case s => exact takesException_of_raises hwf (e := .environmentCallFromSMode) (hraises (by simp [hp]))
    case m => exact takesException_of_raises hwf (e := .environmentCallFromMMode) (hraises (by simp [hp]))
  · have hexec := exec_ecall_exits hgate hcall
    refine ⟨hexec, ?_⟩
    rw [hexec]
    exact finishTick_exited rfl

/-- Settles O36: the row of the table `Raises` that has no premise. -/
theorem ebreakTraps : Obligations.EbreakTraps :=
  fun _ hwf => takesException_of_raises hwf .ebreak

/-! ### Trap returns -/

/-- A trap return writes mstatus and no other CSR. -/
theorem trapReturn_csr {s : State} (hwf : Sparse.wf 0#32 s.csrs = true) (ms : Word) (prev : Priv) (target : Word)
    (a : CsrAddr) : (trapReturn ms prev target s).csr a = if a = csrMstatus then ms else s.csr a :=
  State.csr_setCsr s hwf csrMstatus ms a

@[simp] theorem Priv.ofCode_code (p : Priv) : Priv.ofCode p.code = some p := by cases p <;> rfl

/-- MRET where it may run and MPP holds a mode. -/
theorem exec_mret_returns {s : State} {prev : Priv} (hmay : s.cfg.xretPrivCheck = true → s.priv = .m)
    (hmpp : mppOf (s.csr csrMstatus) = prev.code) :
    exec .mret s = .next (trapReturn (mstatusMret (s.csr csrMstatus) prev) prev (s.csr csrMepc) s) := by
  simp only [exec, execMret, if_neg (not_and_not_right.2 hmay), hmpp, Priv.ofCode_code]

/-- MRET where it may run and MPP holds no mode. -/
theorem exec_mret_refused {s : State} (hmay : s.cfg.xretPrivCheck = true → s.priv = .m)
    (hmpp : mppOf (s.csr csrMstatus) = 2#2) : exec .mret s = .refused .mretToReservedMode := by
  have hnone : Priv.ofCode 2#2 = none := rfl
  simp only [exec, execMret, if_neg (not_and_not_right.2 hmay), hmpp, hnone]

/-- MRET leaves MPP at U. -/
theorem mppOf_mstatusMret (ms : Word) (prev : Priv) : mppOf (mstatusMret ms prev) = 0#2 := by
  apply BitVec.eq_of_getLsbD_eq
  intro i hi
  rw [mppOf, BitVec.getLsbD_extractLsb', mstatusMret_bit]
  interval_cases i <;> rfl

/-- Settles O37: the return bit by bit, the row of the table `Raises`, and the refusal. -/
theorem mretReturns : Obligations.MretReturns := by
  intro s hwf ms
  refine ⟨fun hmay prev hmpp => ?_, fun hcheck hmode => exec_of_raises (.mret hcheck hmode), exec_mret_refused⟩
  have hcsr := trapReturn_csr hwf (mstatusMret ms prev) prev (s.csr csrMepc)
  refine ⟨_, exec_mret_returns hmay hmpp, rfl, rfl, ?_⟩
  rw [hcsr csrMstatus, if_pos rfl]
  refine ⟨?_, ?_, mppOf_mstatusMret ms prev, ?_, fun i hi => ?_, fun a ha => (hcsr a).trans (if_neg ha), rfl⟩
  · exact mstatusMret_bit ms prev 3
  · exact mstatusMret_bit ms prev 7
  · rw [mstatusMret_bit]
    by_cases hprev : prev = .m <;> simp [hprev]
  · simp only [List.mem_cons, List.not_mem_nil, or_false, not_or] at hi
    simp [mstatusMret_bit, hi]

/-- SRET where it may run. -/
theorem exec_sret_returns {s : State} (hmay : s.cfg.xretPrivCheck = true → s.priv ≠ .u) :
    exec .sret s = .next (trapReturn (mstatusSret (s.csr csrMstatus))
      (if (s.csr csrMstatus).getLsbD 8 then .s else .u) (s.csr csrSepc) s) :=
  if_neg (not_and.2 hmay)

/-- Settles O38: the return bit by bit, and the row of the table `Raises`. -/
theorem sretReturns : Obligations.SretReturns := by
  intro s hwf ms
  refine ⟨fun hmay => ?_, fun hcheck hmode => exec_of_raises (.sret hcheck hmode)⟩
  have hcsr := trapReturn_csr hwf (mstatusSret ms) (if ms.getLsbD 8 then .s else .u) (s.csr csrSepc)
  refine ⟨_, exec_sret_returns hmay, rfl, rfl, ?_⟩
  rw [hcsr csrMstatus, if_pos rfl]
  refine ⟨?_, ?_, ?_, ?_, fun i hi => ?_, fun a ha => (hcsr a).trans (if_neg ha), rfl⟩
  · exact mstatusSret_bit ms 1
  · exact mstatusSret_bit ms 5
  · exact mstatusSret_bit ms 8
  · exact mstatusSret_bit ms 17
  · simp only [List.mem_cons, List.not_mem_nil, or_false, not_or] at hi
    simp [mstatusSret_bit, hi]

end Sys2Proof.Machine

/-!
Traps and interrupts (60_exceptions.md): an exception's three outcomes and its frame, and what the end of a tick does with
the CLINT's bits and with the interrupt candidate.
-/
namespace Sys2Proof.Machine

/-! ### Exceptions -/

/-- A delegated exception that delegation would demote to U is refused (60_exceptions.md R414). -/
theorem takeException_demoted {e : Exc} {s : State} (tval : Word) (hdel : Delegated s e.code) (hdem : Demoted s e.code) :
    takeException e tval s = .refused .trapToUser := by
  have ht := (trapTarget_none_iff s e.code).2 ⟨hdel, hdem⟩
  simp only [takeException, ht]

/-- Settles O39: the three outcomes of delegation, each by its lemma, and the table of codes. -/
theorem exceptionEntrySaves : Obligations.ExceptionEntrySaves :=
  ⟨fun _ tval _ hwf => ⟨takeException_entersM hwf tval, takeException_entersS hwf tval, takeException_demoted tval⟩, rfl⟩

theorem Accesses.raised_eq {s u : State} (h : Accesses s u) : u.raised = s.raised := by
  induction h with
  | refl => rfl
  | reserve r h ih => exact ih
  | _ => simpa

/-- Only an exception of the table `Raises` sets the mark `raised`. -/
theorem raises_of_exec_raised {i : Instr} {s t : State} (h : exec i s = .next t) (hs : s.raised = false)
    (ht : t.raised = true) : ∃ e tval s1, Raises i s e tval s1 ∧ takeException e tval s1 = .next t := by
  have hmark : t.raised ≠ s.raised := by rw [hs, ht]; decide
  cases ExecResult.of_exec h with
  | retires rd v next ha => exact absurd ha.raised_eq hmark
  | writesCsr rd v w csr hp hr => exact absurd (by simp) hmark
  | exits status => exact absurd rfl hmark
  | mretReturns prev hi hp ms pc => exact absurd rfl hmark
  | sretReturns prev hi hp ms pc => exact absurd rfl hmark
  | raises hraises hx => exact ⟨_, _, _, hraises, hx⟩

/-- Delivery to M or S leaves every CSR but the saved registers of the two modes and mstatus (60_exceptions.md R416). -/
theorem deliver_csr_rest {target : Priv} (htarget : target = .s ∨ target = .m) (pos : Nat) (cause tval epc : Word)
    {s : State} (hwf : Sparse.wf 0#32 s.csrs = true) {a : CsrAddr}
    (ha : a ∉ [csrMepc, csrMcause, csrMtval, csrMstatus, csrSepc, csrScause, csrStval]) :
    (deliver target pos cause tval epc s).csr a = s.csr a := by
  simp only [List.mem_cons, List.not_mem_nil, or_false, not_or] at ha
  obtain ⟨hmepc, hmcause, hmtval, hmstatus, hsepc, hscause, hstval⟩ := ha
  obtain rfl | rfl := htarget
  · exact (deliver_entersS hwf pos cause tval epc).csrRest a hsepc hscause hstval hmstatus
  · exact (deliver_entersM hwf pos cause tval epc).csrRest a hmepc hmcause hmtval hmstatus

/-- An exception that is not refused is the delivery to S or M, with the mark `raised`. -/
theorem takeException_delivers {e : Exc} {tval : Word} {s t : State} (h : takeException e tval s = .next t) :
    ∃ p, (p = .s ∨ p = .m) ∧
      t = { deliver p e.code (BitVec.ofNat 32 e.code) tval s.pc s with raised := true } := by
  obtain ⟨-, hx⟩ | ⟨p, hp, -, hx⟩ := takeException_cases s e tval
  · rw [hx] at h; cases h
  · rw [hx] at h; cases h; exact ⟨p, hp, rfl⟩

/-- The frame of an exception: pc, mode, reservation and CSRs at most change. -/
theorem takeException_frame {e : Exc} {tval : Word} {s t : State} (h : takeException e tval s = .next t) :
    t = { s with csrs := t.csrs, pc := t.pc, priv := t.priv, reservation := t.reservation, raised := true } := by
  obtain ⟨p, -, rfl⟩ := takeException_delivers h
  exact congrArg (fun u : State => { u with raised := true }) (deliver_eq _ _ tval s.pc s p)

/-- Settles O58: the exception is one of the table `Raises`, delivered in the state that translation left, which differs in
the UART at most. -/
theorem exceptionsArePrecise : Obligations.ExceptionsArePrecise := by
  intro i s t he hs ht
  obtain ⟨e, tval, s1, hraises, hx⟩ := raises_of_exec_raised he hs ht
  have hs1 := hraises.state_eq
  have hframe := takeException_frame hx
  have huart : s1.uart = t.uart := by rw [hframe]
  rw [hs1, huart] at hframe
  refine ⟨State.reg_congr (by rw [hframe]), by rw [hframe], hframe, ?_⟩
  obtain ⟨p, hp, rfl⟩ := takeException_delivers hx
  constructor
  · obtain rfl | rfl := hp
    · exact .inr rfl
    · exact .inl rfl
  · intro hwf a ha
    have hcsr : s1.csr a = s.csr a := by rw [hs1]; rfl
    exact (deliver_csr_rest hp _ _ tval s1.pc (by rwa [hs1]) ha).trans hcsr

/-! ### The interrupt candidate -/

/-- The candidate as a chain of tests in priority order (60_exceptions.md R410). -/
theorem interruptCandidate_eq (s : State) :
    interruptCandidate s =
      if (s.csr csrMip &&& s.csr csrMie).getLsbD 11 then some 11
      else if (s.csr csrMip &&& s.csr csrMie).getLsbD 3 then some 3
      else if (s.csr csrMip &&& s.csr csrMie).getLsbD 7 then some 7
      else if (s.csr csrMip &&& s.csr csrMie).getLsbD 9 then some 9
      else if (s.csr csrMip &&& s.csr csrMie).getLsbD 1 then some 1
      else if (s.csr csrMip &&& s.csr csrMie).getLsbD 5 then some 5
      else none := by
  unfold interruptCandidate
  generalize s.csr csrMip &&& s.csr csrMie = mirq
  simp only [List.find?_cons, List.find?_nil]
  split_ifs <;> simp only [*]

/-- Settles O40: a case split on the first bit that is set. -/
theorem interruptSelectionOrder : Obligations.InterruptSelectionOrder := by
  intro s
  rw [interruptCandidate_eq]
  dsimp only
  generalize s.csr csrMip &&& s.csr csrMie = mirq
  split_ifs <;> simp [*, -BitVec.getLsbD_eq_getElem]

/-! ### The end of a tick -/

/-- An interrupt's delivery, with the interrupts that lose their pending bit as a list (60_exceptions.md R417). -/
theorem deliverInterrupt_eq (target : Priv) (p : Nat) (s : State) :
    deliverInterrupt target p s =
      if p ∈ [1, 3, 9, 11] then (deliver target p (0x80000000#32 ||| BitVec.ofNat 32 p) 0#32 s.pc s).setMip p false
      else deliver target p (0x80000000#32 ||| BitVec.ofNat 32 p) 0#32 s.pc s := by
  simp only [deliverInterrupt, List.mem_cons, List.not_mem_nil, or_false]

section
variable {s : State} {p : Nat} {target : Priv}

/-- An interrupt for M is masked in M with MIE clear (60_exceptions.md R412). -/
theorem interruptMasked_m_iff : interruptMasked .m s = true ↔ s.priv = .m ∧ (s.csr csrMstatus).getLsbD 3 = false := by
  unfold interruptMasked
  cases s.priv <;> simp [Priv.level, Priv.code]

/-- An interrupt for S is masked in M, and in S with SIE clear (60_exceptions.md R412). -/
theorem interruptMasked_s_iff :
    interruptMasked .s s = true ↔ s.priv = .m ∨ (s.priv = .s ∧ (s.csr csrMstatus).getLsbD 1 = false) := by
  unfold interruptMasked
  cases s.priv <;> simp [Priv.level, Priv.code]

theorem resolveInterrupt_refused (hc : interruptCandidate s = some p) (ht : trapTarget p s = none) :
    resolveInterrupt s = .refused .trapToUser := by
  simp only [resolveInterrupt, hc, ht]

theorem resolveInterrupt_masked (hc : interruptCandidate s = some p) (ht : trapTarget p s = some target)
    (hm : interruptMasked target s = true) : resolveInterrupt s = .next s := by
  simp only [resolveInterrupt, hc, ht, hm, if_true]

theorem resolveInterrupt_taken (hc : interruptCandidate s = some p) (ht : trapTarget p s = some target)
    (hm : interruptMasked target s = false) : resolveInterrupt s = .next (deliverInterrupt target p s) := by
  simp only [resolveInterrupt, hc, ht, hm, Bool.false_eq_true, if_false]

end

/-- Settles O41: the target is M, S or refused, and for M and S the masking rule decides. -/
theorem interruptDeliveryOrMask : Obligations.InterruptDeliveryOrMask := by
  refine ⟨fun s => finishTick_raised, fun s => finishTick_retired, fun s => resolveInterrupt_none, ?_⟩
  intro s p hwf hc cause cleared
  refine ⟨?_, ?_, ?_, ?_, ?_⟩
  · intro hM hmode hmie
    exact resolveInterrupt_masked hc ((trapTarget_m_iff s p).2 hM) (interruptMasked_m_iff.2 ⟨hmode, hmie⟩)
  · intro hM hopen
    have hunmasked : interruptMasked .m s = false := Bool.eq_false_iff.2 (mt interruptMasked_m_iff.1 hopen)
    refine ⟨_, deliver_entersM hwf p cause 0#32 s.pc, ?_⟩
    rw [resolveInterrupt_taken hc ((trapTarget_m_iff s p).2 hM) hunmasked, deliverInterrupt_eq]
  · intro hdel hdem hmask
    exact resolveInterrupt_masked hc ((trapTarget_s_iff s p).2 ⟨hdel, hdem⟩) (interruptMasked_s_iff.2 hmask)
  · intro hdel hdem hopen
    have hunmasked : interruptMasked .s s = false := by
      rw [Bool.eq_false_iff, ne_eq, interruptMasked_s_iff]
      rcases hopen with hu | ⟨hs, hsie⟩ <;> simp [*]
    refine ⟨_, deliver_entersS hwf p cause 0#32 s.pc, ?_⟩
    rw [resolveInterrupt_taken hc ((trapTarget_s_iff s p).2 ⟨hdel, hdem⟩) hunmasked, deliverInterrupt_eq]
  · intro hdel hdem
    exact resolveInterrupt_refused hc ((trapTarget_none_iff s p).2 ⟨hdel, hdem⟩)

/-! ### The CLINT in a tick -/

section
variable {s : State} (h : Sparse.wf 0#32 s.csrs = true)
include h

/-- A bit of mip that is set under a condition, and the other bits, which stay. -/
theorem getLsbD_mip_ite_setMip {p : Nat} (hp : p < 32) (c : Prop) [Decidable c] (i : Nat) :
    ((if c then s.setMip p true else s).csr csrMip).getLsbD i = ((s.csr csrMip).getLsbD i || decide (i = p ∧ c)) := by
  by_cases hc : c
  · rw [if_pos hc, getLsbD_mip_setMip h hp]
    by_cases hi : i = p <;> simp [hi, hc]
  · simp [hc]

theorem csr_ite_setMip_of_ne {a : CsrAddr} (ha : a ≠ csrMip) (p : Nat) (c : Prop) [Decidable c] :
    (if c then s.setMip p true else s).csr a = s.csr a := by
  split
  · exact csr_setMip_of_ne h p true ha
  · rfl

theorem timerIrq_mip (i : Nat) : ((timerIrq s).csr csrMip).getLsbD i =
    ((s.csr csrMip).getLsbD i || decide (i = 7 ∧ s.clint.mtimecmp.toNat ≤ s.clint.mtime.toNat)) :=
  getLsbD_mip_ite_setMip h (by decide) _ i

theorem softwareIrq_mip (i : Nat) : ((softwareIrq s).csr csrMip).getLsbD i =
    ((s.csr csrMip).getLsbD i || decide (i = 3 ∧ s.clint.msip = true)) :=
  getLsbD_mip_ite_setMip h (by decide) _ i

theorem timerIrq_csr {a : CsrAddr} (ha : a ≠ csrMip) : (timerIrq s).csr a = s.csr a := csr_ite_setMip_of_ne h ha 7 _

theorem softwareIrq_csr {a : CsrAddr} (ha : a ≠ csrMip) : (softwareIrq s).csr a = s.csr a := csr_ite_setMip_of_ne h ha 3 _

end

theorem timerIrq_clint (s : State) : (timerIrq s).clint = s.clint := by
  unfold timerIrq
  split <;> rfl

/-- The bits of mip after the CLINT's part of a tick (60_exceptions.md R430, R431). -/
theorem clintTick_mip {s : State} (h : Sparse.wf 0#32 s.csrs = true) (i : Nat) : ((clintTick s).csr csrMip).getLsbD i =
    ((s.csr csrMip).getLsbD i
      || decide (i = 7 ∧ s.clint.mtimecmp.toNat ≤ (s.clint.mtime.toNat + 1) % 18446744073709551616)
      || decide (i = 3 ∧ s.clint.msip = true)) := by
  have hm : Sparse.wf 0#32 (mtimeTick s).csrs = true := h
  rw [clintTick, softwareIrq_mip (timerIrq_csrs_wf hm), timerIrq_mip hm, timerIrq_clint]
  have hnext : (mtimeTick s).clint.mtime.toNat = (s.clint.mtime.toNat + 1) % 18446744073709551616 :=
    BitVec.toNat_add _ _
  rw [hnext]
  rfl

theorem clintTick_csr {s : State} (h : Sparse.wf 0#32 s.csrs = true) {a : CsrAddr} (ha : a ≠ csrMip) :
    (clintTick s).csr a = s.csr a :=
  (softwareIrq_csr (timerIrq_csrs_wf (s := mtimeTick s) h) ha).trans (timerIrq_csr (s := mtimeTick s) h ha)

/-- Settles O42: the bits of mip by `clintTick_mip`, the frame by `clintTick_eq`. -/
theorem clintTickSetsBits : Obligations.ClintTickSetsBits := by
  intro s hwf t
  have hframe : t = { s with csrs := t.csrs, clint := { s.clint with mtime := s.clint.mtime + 1#64 } } := clintTick_eq s
  have hmtime : t.clint.mtime = s.clint.mtime + 1#64 := by rw [hframe]
  have hmip := clintTick_mip hwf
  refine ⟨hmtime, ?_, ?_, fun i h7 h3 => ?_, fun a ha => clintTick_csr hwf ha, hmtime ▸ hframe⟩
  · exact (hmip 7).trans (by simp)
  · exact (hmip 3).trans (by simp)
  · exact (hmip i).trans (by simp [h7, h3])

end Sys2Proof.Machine

/-!
Reset and the parts of a tick (70_reset_and_hazards.md): the state after reset, the fetch and its exceptions, and the
host's move before a tick.
-/
namespace Sys2Proof.Machine

/-! ### The state after reset -/

/-- At reset misa is the only CSR entry that is not 0 (10_state.md R51). -/
theorem reset_csr (a : CsrAddr) : State.reset.csr a = if a = csrMisa then 0x40141101#32 else 0#32 := by
  show (if a.toNat = csrMisa.toNat then 0x40141101#32 else 0#32) = _
  simp only [BitVec.toNat_inj]

/-- Both network buffers read 0 at reset (10_state.md R51, decision D1). -/
theorem reset_busPeek_netBuffers {a : Word} (h : 0x11000000 ≤ a.toNat) (h' : a.toNat ≤ 0x11001FFF) :
    busPeek a State.reset = 0#8 := by
  refine busPeek_storage (storageAt_iff.2 ?_)
  by_cases htx : a.toNat ≤ 0x11000FFF
  · exact .inr (.inl (window_netTx h htx))
  · exact .inr (.inr (.inl (window_netRx (by omega) h')))

/-- Settles O54: the registers by O7, the CSR entries and the network buffers by their lemmas; every other element is a
field of `State.reset`. -/
theorem resetStateValues : Obligations.ResetStateValues := by
  obtain ⟨-, -, hregs⟩ := registersHoldWrites
  exact ⟨hregs, rfl, rfl, rfl, rfl, reset_csr, rfl, rfl, rfl, rfl, rfl, rfl, rfl, rfl, rfl, rfl, rfl, rfl, rfl, rfl, rfl,
    rfl, fun _ h h' => reset_busPeek_netBuffers h h', rfl⟩

/-- Settles O56: no memory cell is listed, and the one CSR entry is at misa, which is stored. -/
theorem resetHasInvariant : Obligations.ResetHasInvariant where
  memory := Memory.reset_wf
  memoryPlace := List.forall_mem_nil _
  csrFile := rfl
  csrPlace := List.forall_mem_singleton.2 (by decide)
  zero := rfl
  mideleg := by rw [reset_csr, if_neg (by decide), BitVec.zero_and]
  unstored a ha := by
    have hmisa : a ≠ csrMisa := by rintro rfl; exact absurd ha (by decide)
    rw [reset_csr, if_neg hmisa]
  uart := by decide
  settled := rfl

/-! ### The fetch -/

section
variable {s : State} (hpc : s.pc.extractLsb' 0 2 = 0#2)
include hpc

theorem fetch_pageFault (ht : (translate s.pc .fetch s).1 = none) :
    fetch s = (.trap .instructionPageFault s.pc, (translate s.pc .fetch s).2) := by
  obtain ⟨s1, hs1⟩ : ∃ s1, translate s.pc .fetch s = (none, s1) := ⟨_, Prod.ext ht rfl⟩
  simp only [fetch, hpc, ne_eq, not_true_eq_false, if_false, hs1]

theorem fetch_decoded {pa : Word} {i : Instr} (ht : (translate s.pc .fetch s).1 = some pa)
    (hdec : decode (busRead 4 pa (translate s.pc .fetch s).2).1 = .ok i) :
    fetch s = (.instr i, (busRead 4 pa (translate s.pc .fetch s).2).2) := by
  obtain ⟨s1, hs1⟩ : ∃ s1, translate s.pc .fetch s = (some pa, s1) := ⟨_, Prod.ext ht rfl⟩
  rw [hs1] at hdec ⊢
  simp only [fetch, hpc, ne_eq, not_true_eq_false, if_false, hs1, hdec]

end

theorem fetch_misaligned {s : State} (hpc : s.pc.extractLsb' 0 2 ≠ 0#2) :
    fetch s = (.trap .instructionAddressMisaligned s.pc, s) := if_pos hpc

/-- A running machine's step, from what its fetch gives. -/
theorem step_of_fetch {s u : State} {f : Fetched} (hrun : s.exited = none) (hf : fetch (beginTick s) = (f, u)) :
    step s = endTick (runFetched (f, u)) := by
  rw [step_running hrun, hf]

/-- Settles O52: the fetch of either pc is a trap with that pc as value, and the tick's first step leaves pc and mode. -/
theorem fetchExceptionsTrap : Obligations.FetchExceptionsTrap := by
  refine ⟨fun s hrun hpc => ?_, fun s hrun hpc ht => ?_, fun s => ⟨beginTick_pc s, by rw [beginTick_eq]⟩⟩
  · rw [step_of_fetch hrun (fetch_misaligned hpc), runFetched, beginTick_pc]
  · rw [step_of_fetch hrun (fetch_pageFault hpc ht), runFetched, beginTick_pc]

/-! ### The first step of a tick -/

/-- With another memory the bytes of plain storage are that memory's, and every other byte reads as before. -/
theorem busPeek_withMem {s : State} (m : Memory) (x : Word) :
    busPeek x { s with mem := m } = if storageAt s.cfg x.toNat then m.read x.toNat else busPeek x s := by
  split
  · next hx => exact busPeek_storage hx
  · next hx =>
    obtain ⟨hram, htx, hrx, hmtd⟩ : window s.cfg x.toNat ≠ .ram ∧ window s.cfg x.toNat ≠ .netTx ∧
        window s.cfg x.toNat ≠ .netRx ∧ window s.cfg x.toNat ≠ .mtd := by
      simpa only [storageAt_iff, not_or] using hx
    cases hw : window s.cfg x.toNat
    case ram | netTx | netRx | mtd => contradiction
    all_goals simp only [busPeek, hw]

theorem beginTick_idleMove {s : State} {rest : List HostMove} (h : s.host.inbox = .idle :: rest) :
    beginTick s = { s with clock := s.clock + 1#32, raised := false, host := { s.host with inbox := rest } } := by
  simp only [beginTick, takeHostMove, h, hostMove]

section
variable {s : State} {bytes : List (Fin 4096 × Byte)} {seip : Bool} {rest : List HostMove}

/-- The RX buffer's bytes after a receive move (20_memory.md R100). -/
theorem beginTick_receive_mem (h : s.host.inbox = .receive bytes seip :: rest) :
    (beginTick s).mem = bytes.foldl (fun mem c => mem.write (0x11001000 + c.1.val) c.2) s.mem := by
  simp only [beginTick, takeHostMove, h, hostMove]
  cases seip <;> rfl

/-- A receive move writes mip, and only if it says so (20_memory.md R100, decision D33). -/
theorem beginTick_receive_csrs (h : s.host.inbox = .receive bytes seip :: rest) :
    (beginTick s).csrs = if seip then (s.setMip 9 true).csrs else s.csrs := by
  simp only [beginTick, takeHostMove, h, hostMove]
  cases seip <;> rfl

theorem beginTick_receive_csr (h : s.host.inbox = .receive bytes seip :: rest) (hwf : Sparse.wf 0#32 s.csrs = true)
    (a : CsrAddr) :
    (beginTick s).csr a = if a = csrMip ∧ seip = true then s.csr csrMip ||| 0x200#32 else s.csr a := by
  have hcsrs := beginTick_receive_csrs h
  cases seip with
  | false => simpa using State.csr_congr hcsrs a
  | true =>
    have hset : putBit (s.csr csrMip) 9 true = s.csr csrMip ||| 0x200#32 := rfl
    simpa only [and_true, hset] using (State.csr_congr hcsrs a).trans (State.csr_setMip s hwf 9 true a)

/-- A received byte is read at its place in the RX buffer; every other address shows what it did. -/
theorem beginTick_receive_busPeek (h : s.host.inbox = .receive bytes seip :: rest) (hwf : s.mem.wf = true) (x : Word) :
    busPeek x (beginTick s) =
      match bytes.reverse.find? (fun c => decide (0x11001000 + c.1.val = x.toNat)) with
      | some c => c.2
      | none => busPeek x s := by
  rw [beginTick_eq]
  refine (busPeek_withMem (beginTick s).mem x).trans ?_
  rw [beginTick_receive_mem h, receive_read bytes hwf]
  cases hfind : bytes.reverse.find? (fun c => decide (0x11001000 + c.1.val = x.toNat)) with
  | some c =>
    have hplace : 0x11001000 + c.1.val = x.toNat := by simpa using List.find?_some hfind
    exact if_pos (hplace ▸ storageAt_netRx s.cfg c.1.isLt)
  | none => exact ite_eq_right_iff.2 fun hx => (busPeek_storage hx).symm

/-- A receive move changes the RX buffer, mip and the inbox only. -/
theorem beginTick_receive_eq (h : s.host.inbox = .receive bytes seip :: rest) :
    beginTick s = { s with
      mem := (beginTick s).mem, csrs := (beginTick s).csrs, clock := s.clock + 1#32, raised := false,
      host := { s.host with inbox := rest } } := by
  have hframe := beginTick_eq s
  rwa [h, List.tail_cons] at hframe

end

/-! ### A step that runs an instruction -/

theorem step_decoded {s : State} {pa : Word} {i : Instr} (hrun : s.exited = none)
    (hpc : (beginTick s).pc.extractLsb' 0 2 = 0#2)
    (ht : (translate (beginTick s).pc .fetch (beginTick s)).1 = some pa)
    (hdec : decode (busRead 4 pa (translate (beginTick s).pc .fetch (beginTick s)).2).1 = .ok i) :
    step s = endTick (exec i (busRead 4 pa (translate (beginTick s).pc .fetch (beginTick s)).2).2) :=
  step_of_fetch hrun (fetch_decoded hpc ht hdec)

/-- With an idle host, translation off and the word in RAM, only the clock moves before the instruction. -/
theorem step_decoded_ram {s : State} {i : Instr} (hrun : s.exited = none) (hidle : s.host.inbox = [])
    (hraised : s.raised = false) (hoff : s.mmu.mode = .off) (hpc : s.pc.extractLsb' 0 2 = 0#2)
    (hram : ∀ k, k < 4 → window s.cfg (s.pc + BitVec.ofNat 32 k).toNat = .ram)
    (hdec : decode (busPeek (s.pc + 3#32) s ++ busPeek (s.pc + 2#32) s ++ busPeek (s.pc + 1#32) s ++ busPeek s.pc s) = .ok i) :
    step s = endTick (exec i { s with clock := s.clock + 1#32 }) := by
  have hb : beginTick s = { s with clock := s.clock + 1#32 } := by rw [beginTick_idle hidle, ← hraised]
  have ht : translate (beginTick s).pc .fetch (beginTick s) = (some s.pc, beginTick s) := by
    rw [hb]
    exact translate_off (by exact hoff) s.pc .fetch
  have hread := busRead_four_of_pure s.pc (beginTick s) fun k hk => by
    rw [hb]
    exact (hram k hk).trans_ne (by decide)
  have hstep := step_decoded (pa := s.pc) (i := i) hrun (by rwa [beginTick_pc]) (congrArg Prod.fst ht)
  rw [ht, hread] at hstep
  rw [← hb]
  exact hstep (by rwa [hb])

/-- Settles O51: the step by its fetch, and the tick's first step for each move of the host. -/
theorem stepRunsDecoded : Obligations.StepRunsDecoded := by
  refine ⟨fun s pa i hrun => step_decoded hrun, fun s i => step_decoded_ram, fun u => rfl, fun s => beginTick_idle,
    fun s rest => beginTick_idleMove, fun s bytes seip rest h hmem hcsrs => ?_⟩
  exact ⟨beginTick_receive_busPeek h hmem, beginTick_receive_csr h hcsrs, beginTick_receive_eq h⟩

end Sys2Proof.Machine

/-!
The clock and the launch parameters in a tick (70_reset_and_hazards.md R501): the first step counts, and every part after it
keeps both.
-/
namespace Sys2Proof.Machine

/-- Neither the clock nor the launch parameters have changed. -/
def SameClock (s t : State) : Prop := t.clock = s.clock ∧ t.cfg = s.cfg

theorem SameClock.trans {s t u : State} (h : SameClock s t) (h' : SameClock t u) : SameClock s u :=
  ⟨h'.1.trans h.1, h'.2.trans h.2⟩

section
variable {s t : State}

theorem Accesses.sameClock (h : Accesses s t) : SameClock s t := by
  induction h with
  | refl => exact ⟨rfl, rfl⟩
  | reserve r h ih => exact ih
  | _ => simpa [SameClock]

theorem takeException_sameClock {e : Exc} {tval : Word} (h : takeException e tval s = .next t) : SameClock s t := by
  rw [takeException_frame h]
  exact ⟨rfl, rfl⟩

theorem exec_sameClock {i : Instr} (h : exec i s = .next t) : SameClock s t := by
  cases ExecResult.of_exec h with
  | retires rd v next ha => exact ha.sameClock
  | writesCsr rd v w csr hp hr => simp [SameClock]
  | exits status => exact ⟨rfl, rfl⟩
  | mretReturns prev hi hp ms pc => exact ⟨rfl, rfl⟩
  | sretReturns prev hi hp ms pc => exact ⟨rfl, rfl⟩
  | raises hraises hr => exact hraises.accesses.sameClock.trans (takeException_sameClock hr)

theorem fetch_sameClock (s : State) : SameClock s (fetch s).2 := by
  rw [fetch_snd]
  exact ⟨rfl, rfl⟩

theorem runFetched_sameClock {f : Fetched} (h : runFetched (f, s) = .next t) : SameClock s t := by
  cases f with
  | instr i => exact exec_sameClock h
  | trap e tval => exact takeException_sameClock h

theorem deliverInterrupt_sameClock (target : Priv) (p : Nat) (s : State) : SameClock s (deliverInterrupt target p s) := by
  rw [deliverInterrupt_eq]
  split
  · exact ⟨deliver_clock .., deliver_cfg ..⟩
  · exact ⟨deliver_clock .., deliver_cfg ..⟩

theorem resolveInterrupt_sameClock (h : resolveInterrupt s = .next t) : SameClock s t := by
  cases hc : interruptCandidate s with
  | none => rw [resolveInterrupt_none hc] at h; cases h; exact ⟨rfl, rfl⟩
  | some p =>
    obtain ⟨-, hx⟩ | ⟨q, -, -, ⟨-, hx⟩ | ⟨-, hx⟩⟩ := resolveInterrupt_some hc
    · rw [hx] at h; cases h
    · rw [hx] at h; cases h; exact ⟨rfl, rfl⟩
    · rw [hx] at h; cases h; exact deliverInterrupt_sameClock q p s

theorem deviceTick_sameClock (s : State) : SameClock s (deviceTick s) := ⟨deviceTick_clock s, deviceTick_cfg s⟩

theorem finishTick_sameClock (h : finishTick s = .next t) : SameClock s t := by
  cases hx : s.exited with
  | some v => rw [finishTick_exited (by simp [hx])] at h; cases h; exact ⟨rfl, rfl⟩
  | none =>
    cases hraised : s.raised with
    | true => rw [finishTick_raised hx hraised] at h; cases h; exact deviceTick_sameClock s
    | false =>
      rw [finishTick_retired hx hraised] at h
      exact (deviceTick_sameClock s).trans (resolveInterrupt_sameClock h)

end

/-- Settles O55: the tick's first step counts, and the fetch, the instruction and the tick's end leave the clock alone. -/
theorem tickCountsOne : Obligations.TickCountsOne := by
  intro s t hstep
  obtain ⟨-, u, hrun, hend⟩ := step_next hstep
  have hsame := ((fetch_sameClock (beginTick s)).trans (runFetched_sameClock hrun)).trans (finishTick_sameClock hend)
  rwa [beginTick_eq] at hsame

end Sys2Proof.Machine
